-- ==== Sys2Proof/Word.lean ====
section
/-! DEFINITION. The widths of the machine (spec/00_scope.md R5, R6): every value is an unsigned bit vector. -/

namespace Sys2Proof

/-- `BV(8)`: a byte of a packet, of the key or of the IV, and an entry of S0, S1 or D256 (R31, R37). -/
abbrev Byte := BitVec 8

/-- `BV(31)`: an LFSR cell, an element of the field of integers modulo 2^31-1 (R10). -/
abbrev Cell := BitVec 31

/-- `BV(32)`: r1, r2, X0 .. X3, W and a keystream word (R5, R11). -/
abbrev Word := BitVec 32

/-- The 16 cells of the linear feedback shift register, `lfsr[0]` .. `lfsr[15]` (R10). -/
abbrev Lfsr := Vector Cell 16

end Sys2Proof
end

