-- ==== Sys2Proof/Config.lean ====
section
/-! DEFINITION. What is fixed for the machine (spec/00_scope.md R5) and the free values: constants without a body
that stand for what the spec leaves unspecified after reset (spec/70_reset_and_hazards.md R170, R171; log 2). -/

namespace Sys2Proof.Config

/-- P = 2^31 - 1, the field modulus (R5). As a cell it stands for the field's zero (R72 (d)). -/
def fieldPrime : Cell := 0x7FFFFFFF#31

/-- NINIT: the number of initialization rounds before the finishing round (R5, R129). -/
def initRounds : Nat := 32

/-- The most bytes a packet can have: 3 + KLEN + IVLEN with KLEN = IVLEN = 255 (R53, R57). -/
def maxPacketBytes : Nat := 513

/-- FREE VALUE (R170, R171; log 2): what cell `index` holds after the reset numbered `count`. It may depend on the old
contents, because whether reset wipes them is the open parameter RESET_CLEARS_STATE (D20). -/
opaque resetCell (count index : Nat) (old : Cell) : Cell

/-- FREE VALUE (R170, R171; log 2): what `r1` holds after the reset numbered `count`. -/
opaque resetR1 (count : Nat) (old : Word) : Word

/-- FREE VALUE (R170, R171; log 2): what `r2` holds after the reset numbered `count`. -/
opaque resetR2 (count : Nat) (old : Word) : Word

end Sys2Proof.Config
end

