-- ==== Sys2Proof/Syntax.lean ====
section
/-! DEFINITION. The instructions: the rows of spec/opcode_table.json. The seven ILLEGAL rows are one instruction cut
into mask-and-match patterns (R60, R61, log 11). -/

namespace Sys2Proof

/-- The two spaces of the opcode table: packets on the command port (R53), and the word `phase ‖ rc` of the state, from
which the sequencer's operation is decoded (R62, R129). -/
inductive Space where
  | hostCommand
  | sequencerState
  deriving DecidableEq, Repr

/-- One operation the block can execute in a step. -/
inductive Instr where
  /-- SEED, opcode 0x01: the key and IV bytes in index order; KLEN and IVLEN are their lengths (R54, R59). -/
  | seed (key iv : List Byte)
  /-- NEXT, opcode 0x02 (R55). -/
  | next
  /-- FILL, opcode 0x03: the number of words (R56). -/
  | fill (n : BitVec 32)
  /-- Every other value of byte 0: a one-byte packet that is answered ERR_ILLEGAL_OPCODE (R61, R156). -/
  | illegal (opcode : Byte)
  /-- INIT_ROUND, sequencer pattern `010rrrrr`: `r` is rc[4:0] (R62, R130). -/
  | initRound (r : BitVec 5)
  /-- FINISH, sequencer pattern `01100000` (R62, R132). -/
  | finish
  deriving DecidableEq, Repr

/-- The space of the opcode table in which an instruction has its encoding. -/
def Instr.space : Instr → Space
  | .seed _ _ => .hostCommand
  | .next => .hostCommand
  | .fill _ => .hostCommand
  | .illegal _ => .hostCommand
  | .initRound _ => .sequencerState
  | .finish => .sequencerState

end Sys2Proof
end

