-- ==== Sys2Proof/WellFormed.lean ====
section
/-! DEFINITION. Which terms of `Instr` an encoding can express. -/

namespace Sys2Proof

/-- The length fields of SEED are one byte each (R54, R59, log 21). -/
abbrev seedLengthsFit (key iv : List Byte) : Prop := key.length ≤ 255 ∧ iv.length ≤ 255

/-- The opcode is none of SEED, NEXT and FILL (R60, R61). -/
abbrev isIllegalOpcode (opcode : Byte) : Prop := opcode ≠ 0x01#8 ∧ opcode ≠ 0x02#8 ∧ opcode ≠ 0x03#8

/-- An instruction that some packet, or some sequencer word, encodes. -/
abbrev WellFormed (i : Instr) : Prop :=
  (match i with
    | .seed key iv => decide (seedLengthsFit key iv)
    | .next => true
    | .fill _ => true
    | .illegal opcode => decide (isIllegalOpcode opcode)
    | .initRound _ => true
    | .finish => true) = true

end Sys2Proof
end

