-- ==== Sys2Proof/Decode.lean ====
section
/-! DEFINITION. The decoder of command packets and of the sequencer's word, the encoder, and the host's view of a
table word (spec/30_encoding.md R53 to R62). -/

namespace Sys2Proof

/-- Why a byte string or a sequencer word gives no instruction. -/
inductive DecodeError where
  /-- The bytes end before the packet does: the block waits for the rest (R57, U7). -/
  | incompletePacket
  /-- The word `phase ‖ rc` selects no sequencer operation (R62, R129). -/
  | noSequencerOperation
  deriving DecidableEq, Repr

/-- An instruction with the bytes that follow it, or a reason. -/
inductive Decoded where
  | instr (i : Instr) (rest : List Byte)
  | reject (why : DecodeError)
  deriving DecidableEq, Repr

/-- SEED after its opcode: KLEN, IVLEN, KLEN key bytes, IVLEN IV bytes (R53, R54, R59). -/
def decodeSeed : List Byte → Decoded
  | klen :: ivlen :: body =>
    if body.length < klen.toNat + ivlen.toNat then .reject .incompletePacket
    else
      .instr (.seed (body.take klen.toNat) ((body.drop klen.toNat).take ivlen.toNat))
        (body.drop (klen.toNat + ivlen.toNat))
  | _ => .reject .incompletePacket

/-- FILL after its opcode: N, most significant byte first (R35, R56, R59). -/
def decodeFill : List Byte → Decoded
  | b1 :: b2 :: b3 :: b4 :: rest => .instr (.fill (b1 ++ b2 ++ b3 ++ b4)) rest
  | _ => .reject .incompletePacket

/-- The packet decoder, total on every byte string: the opcode map of R60 and the packet lengths of R57. -/
def decodePacket : List Byte → Decoded
  | [] => .reject .incompletePacket
  | opcode :: rest =>
    if opcode = 0x01#8 then decodeSeed rest
    else if opcode = 0x02#8 then .instr .next rest
    else if opcode = 0x03#8 then decodeFill rest
    else .instr (.illegal opcode) rest

/-- The sequencer's decoder of the word `phase[1:0] ‖ rc[5:0]` (R62). -/
def decodeSequencer (w : Byte) : Except DecodeError Instr :=
  if w.extractLsb' 5 3 = 0b010#3 then .ok (.initRound (w.extractLsb' 0 5))
  else if w = 0b01100000#8 then .ok .finish
  else .error .noSequencerOperation

/-- The decoder of both spaces of the opcode table; a sequencer word is one byte. -/
def decode : Space → List Byte → Decoded
  | .hostCommand, bytes => decodePacket bytes
  | .sequencerState, [] => .reject .noSequencerOperation
  | .sequencerState, w :: rest =>
    match decodeSequencer w with
    | .ok i => .instr i rest
    | .error why => .reject why

/-- The encoder: the bytes of a packet, or the one word of a sequencer operation (R53 to R56, R62). -/
def encode : Instr → List Byte
  | .seed key iv => 0x01#8 :: BitVec.ofNat 8 key.length :: BitVec.ofNat 8 iv.length :: (key ++ iv)
  | .next => [0x02#8]
  | .fill n => [0x03#8, n.extractLsb' 24 8, n.extractLsb' 16 8, n.extractLsb' 8 8, n.extractLsb' 0 8]
  | .illegal opcode => [opcode]
  | .initRound r => [0b010#3 ++ r]
  | .finish => [0b01100000#8]

/-- The bytes of a table word as the command port carries them, the first byte in the low bits; every byte from bit
`nbits` on is 0, up to the longest packet. -/
def tableBytes (nbits w : Nat) : List Byte :=
  (List.range Config.maxPacketBytes).map fun i => if 8 * i < nbits then BitVec.ofNat 8 (w >>> (8 * i)) else 0#8

/-- The space a table word is read in: the sequencer's where its first byte selects an operation there, else the
command port's. The words 0x40 .. 0x60 stand in both spaces of the table (log 6). -/
def tableSpace (bytes : List Byte) : Space :=
  match decode .sequencerState bytes with
  | .instr _ _ => .sequencerState
  | .reject _ => .hostCommand

/-- The instruction this model's decoders read from a table word (log 6). -/
def decodeTableWord (nbits w : Nat) : Option Instr :=
  match decode (tableSpace (tableBytes nbits w)) (tableBytes nbits w) with
  | .instr i _ => some i
  | .reject _ => none

end Sys2Proof
end

