-- ==== Sys2Proof/Machine/Datapath.lean ====
section
/-! DEFINITION. The datapath: field arithmetic (spec/40_field_arithmetic.md), bit reconstruction
(spec/41_bit_reconstruction.md), the nonlinear function F (spec/42_nonlinear_F.md) and the LFSR advance
(spec/43_lfsr_advance.md). Every function is total on all its inputs (R19, R104). -/

namespace Sys2Proof.Machine

/-- ROT31: bit i of x becomes bit (i + k) mod 31 (R70). At k = 0 and k = 31 it is the identity (U10, log 15). -/
def rot31 (x : Cell) (k : Nat) : Cell := x.rotateLeft k

/-- ADD31: the raw 32-bit sum with the carry folded back into the low 31 bits (R71). -/
def add31 (x y : Cell) : Cell :=
  let sum : Word := x.setWidth 32 + y.setWidth 32
  sum.extractLsb' 0 31 + (sum.extractLsb' 31 1).setWidth 31

/-- H16(c) = c[30:15], the high 16 bits of a cell (R7). -/
def high16Cell (c : Cell) : BitVec 16 := c.extractLsb' 15 16

/-- L16(c) = c[15:0], the low 16 bits of a cell (R7). -/
def low16Cell (c : Cell) : BitVec 16 := c.extractLsb' 0 16

/-- high16(w) = w[31:16] (R7). -/
def high16 (w : Word) : BitVec 16 := w.extractLsb' 16 16

/-- low16(w) = w[15:0] (R7). -/
def low16 (w : Word) : BitVec 16 := w.extractLsb' 0 16

/-- The four words of bit reconstruction: wires, never state (R16). -/
structure Wires where
  x0 : Word
  x1 : Word
  x2 : Word
  x3 : Word
  deriving DecidableEq, Repr

/-- BR, bit reconstruction (R80; C6: every half is 16 bits). -/
def bitReconstruction (l : Lfsr) : Wires where
  x0 := high16Cell l[15] ++ low16Cell l[14]
  x1 := low16Cell l[11] ++ high16Cell l[9]
  x2 := low16Cell l[7] ++ high16Cell l[5]
  x3 := low16Cell l[2] ++ high16Cell l[0]

/-- L1, over all 32 bits (R85). -/
def mixL1 (x : Word) : Word := x ^^^ x.rotateLeft 2 ^^^ x.rotateLeft 10 ^^^ x.rotateLeft 18 ^^^ x.rotateLeft 24

/-- L2, over all 32 bits (R86). -/
def mixL2 (x : Word) : Word := x ^^^ x.rotateLeft 8 ^^^ x.rotateLeft 14 ^^^ x.rotateLeft 22 ^^^ x.rotateLeft 30

/-- SUB: the bytes of a word through S0, S1, S0, S1 from the most significant one; the same order for both registers
(R33, R90; C2, log 16). -/
def substitute (x : Word) : Word :=
  sbox0 (x.extractLsb' 24 8) ++ sbox1 (x.extractLsb' 16 8) ++ sbox0 (x.extractLsb' 8 8) ++ sbox1 (x.extractLsb' 0 8)

/-- The result of F: its return value W and the new values of r1 and r2 (R92). -/
structure MixResult where
  w : Word
  r1 : Word
  r2 : Word
  deriving DecidableEq, Repr

/-- F, the nonlinear function: W, w1 and w2 are all made from the old r1 and r2 (R92, R93), and the halves of w1 and w2
are exchanged as R91 says (C1, log 16). -/
def nonlinearF (r1 r2 x0 x1 x2 : Word) : MixResult :=
  let w1 := r1 + x1
  let w2 := r2 ^^^ x2
  { w := (r1 ^^^ x0) + r2
    r1 := substitute (mixL1 (low16 w1 ++ high16 w2))
    r2 := substitute (mixL2 (low16 w2 ++ high16 w1)) }

/-- The sum t of the seven feedback terms, added left to right (R100; C7). -/
def feedbackSum (l : Lfsr) (inj : Cell) : Cell :=
  add31 (add31 (add31 (add31 (add31 (add31 l[0] (rot31 l[0] 8)) (rot31 l[4] 20)) (rot31 l[10] 21)) (rot31 l[13] 17))
    (rot31 l[15] 15)) inj

/-- FEEDBACK: the sum, with 0 replaced by 2^31 - 1 (R100). -/
def feedback (l : Lfsr) (inj : Cell) : Cell :=
  if feedbackSum l inj = 0#31 then Config.fieldPrime else feedbackSum l inj

/-- SHIFT: every cell moves down by one index and v enters cell 15 (R101). -/
def shift (l : Lfsr) (v : Cell) : Lfsr :=
  #v[l[1], l[2], l[3], l[4], l[5], l[6], l[7], l[8], l[9], l[10], l[11], l[12], l[13], l[14], l[15], v]

/-- ADVANCE(inj): the feedback and the shift, both from the same cells (R101 to R103). -/
def advance (l : Lfsr) (inj : Cell) : Lfsr := shift l (feedback l inj)

/-- inj = W[31:1], the injected value of initialization mode (R102; C4: it may be 0). -/
def injected (w : Word) : Cell := w.extractLsb' 1 31

end Sys2Proof.Machine
end

