-- ==== Sys2Proof/Machine/State.lean ====
section
/-! DEFINITION. The state as plain data (spec/10_state.md R10 to R13), the reasons a step can stop, and the machine
right after reset (R23). -/

namespace Sys2Proof.Machine

/-- The generator's state machine (R12). The register code 11 is never held, so the type has three values (U3). -/
inductive Phase where
  | unseeded
  | initializing
  | ready
  deriving DecidableEq, Repr

/-- The status of a command; codes 0x06 .. 0xFF are never produced, so the type has six values (R150, U4). -/
inductive Status where
  | ok
  | errKeySize
  | errIvSize
  | errNotReady
  | errAlreadySeeded
  | errIllegalOpcode
  deriving DecidableEq, Repr

/-- A response: a status and the words that follow it, in order (R58). -/
structure Response where
  status : Status
  words : List Word
  deriving DecidableEq, Repr

/-- One item on the response port: the status code, or a keystream word (R51). -/
inductive RspItem where
  | status (code : Byte)
  | word (z : Word)
  deriving DecidableEq, Repr

/-- A response that a reset stopped: the items delivered before it, at least one and not the last one (R170). -/
structure StoppedResponse where
  /-- How many whole responses had been delivered before it. -/
  position : Nat
  items : List RspItem
  deriving DecidableEq, Repr

/-- What the host does next at the block's inputs (R50 to R52, R63; log 3). -/
inductive HostEvent where
  /-- The host offers a byte on the command port and keeps offering it until the block takes it (R52). -/
  | byte (b : Byte)
  /-- The host asserts `rst` between two steps (R170). -/
  | rst
  /-- The host asserts `rst` in the middle of the step before it: `items` items of that step's response have been
  delivered by then, and never the last one (R170; log 17). -/
  | rstDuring (items : Nat)
  /-- The host does nothing while the block makes one step; it places what follows after that step (log 3). -/
  | wait
  deriving DecidableEq, Repr

/-- The machine: the registers of R10 to R13, then the model's own fields for its ports and its free values. -/
structure State where
  /-- The 16 cells of the linear feedback shift register (R10). -/
  lfsr : Lfsr
  /-- Memory of the nonlinear function (R11). -/
  r1 : Word
  /-- Memory of the nonlinear function (R11). -/
  r2 : Word
  /-- The state of the generator's state machine (R12). -/
  phase : Phase
  /-- The round counter of initialization (R13). -/
  rc : BitVec 6
  /-- MODEL's own (log 3): what the host will do, the next event first. -/
  host : List HostEvent
  /-- MODEL's own (log 5): the responses the block has delivered whole, the oldest first. -/
  responses : List Response
  /-- MODEL's own (log 17): what was delivered of the responses that a reset stopped, the oldest first. -/
  stopped : List StoppedResponse
  /-- MODEL's own (log 2): how many resets there were, the argument of the free values after reset. -/
  resets : Nat
  deriving DecidableEq, Repr

/-- Why the machine stops with a fault. -/
inductive Fault where
  /-- Raised by `step` in a state with `phase` INITIALIZING and `rc` above 32, for which the spec defines no step (R129,
  U2). No run from reset reaches one. SAFE: the model stops where the spec says nothing (log 8). -/
  | noSequencerOperation
  /-- Raised by the meanings of INIT_ROUND and FINISH when the state does not select them: their precondition (R130, R132).
  `step` never applies them so. SAFE (log 10). -/
  | sequencerNotSelected
  deriving DecidableEq, Repr

/-- Why the machine refuses. -/
inductive Refusal where
  /-- Raised by `exec` for an instruction that has no meaning yet; no arm answers it. SAFE. -/
  | notModelled (mnemonic : String)
  deriving DecidableEq, Repr

/-- What executing an instruction gives. -/
abbrev Result := Host.Outcome State Fault Refusal

/-- The machine right after reset (R23). The spec leaves lfsr, r1 and r2 unspecified: 0 is a DESIGN CHOICE, unsafe
(log 1). The host's list is empty: a program is placed from outside (log 3). -/
def State.reset : State where
  lfsr := Vector.replicate 16 0#31
  r1 := 0#32
  r2 := 0#32
  phase := .unseeded
  rc := 0#6
  host := []
  responses := []
  stopped := []
  resets := 0

end Sys2Proof.Machine
end

