-- ==== Sys2Proof/Machine/Flags.lean ====
section
/-! DEFINITION. The block has no status flags (spec/10_state.md R15). What it shows instead: the code of a status
(R150), the code of the phase register (R12, R62), and the output ports that are functions of the state (R51). -/

namespace Sys2Proof.Machine

/-- The 8-bit code of a status on the response port (R150). -/
def Status.code : Status → Byte
  | .ok => 0x00#8
  | .errKeySize => 0x01#8
  | .errIvSize => 0x02#8
  | .errNotReady => 0x03#8
  | .errAlreadySeeded => 0x04#8
  | .errIllegalOpcode => 0x05#8

/-- The 2-bit code of the phase register (R12). -/
def Phase.code : Phase → BitVec 2
  | .unseeded => 0b00#2
  | .initializing => 0b01#2
  | .ready => 0b10#2

/-- The word `phase[1:0] ‖ rc[5:0]` from which the sequencer's operation is decoded (R62). -/
def State.sequencerWord (s : State) : Byte := s.phase.code ++ s.rc

/-- The output `busy`: 1 exactly when `phase` is INITIALIZING (R51). -/
def State.busy (s : State) : Bool := s.phase == .initializing

/-- The output `cmd_ready` between two steps: 0 while `phase` is INITIALIZING (R51, R52). -/
def State.cmdReady (s : State) : Bool := !s.busy

/-- A response as the port carries it: the status first, then the words in order (R51, R58). `rsp_last` is 1 at the last
item of this list and nowhere else. -/
def Response.items (r : Response) : List RspItem := .status r.status.code :: r.words.map .word

end Sys2Proof.Machine
end

