-- ==== Sys2Proof/Machine/Operands.lean ====
section
/-! DEFINITION. What SEED does with its operands: the length checks (spec/45_generator_commands.md R125) and the
key/IV scheduler that packs key, IV and constants into 16 cells (spec/44_key_iv_schedule.md R110 to R116). -/

namespace Sys2Proof.Machine

/-- KLEN is one the block accepts (R125, R151). -/
def keyLengthOk (klen : Nat) : Bool := klen == 16 || klen == 32

/-- IVLEN is the one that an accepted KLEN requires: 16 for 16, 23 for 32 (R125, R152). -/
def ivLengthOk (klen ivlen : Nat) : Bool := if klen = 16 then ivlen == 16 else ivlen == 23

/-- `key[i]` or `iv[i]`; no rule forms an index outside the operand (R31, R32). -/
def byteAt (bytes : List Byte) (i : Nat) : Byte := bytes.getD i 0#8

/-- One cell of LOAD128: key byte, 15-bit constant, IV byte (R112). -/
def cell128 (key : Byte) (constant : BitVec 15) (iv : Byte) : Cell := key ++ constant ++ iv

/-- LOAD128, the scheduler of the 16-byte-key variant (R112). -/
def load128 (key iv : List Byte) : Lfsr :=
  Vector.ofFn fun i => cell128 (byteAt key i) const128[i] (byteAt iv i)

/-- The eight 6-bit slices iv17 .. iv24 of the last six IV bytes, most significant bit first (R115; C3, log 14). -/
def ivSlices (iv : List Byte) : Vector (BitVec 6) 8 :=
  let b17 := byteAt iv 17
  let b18 := byteAt iv 18
  let b19 := byteAt iv 19
  let b20 := byteAt iv 20
  let b21 := byteAt iv 21
  let b22 := byteAt iv 22
  #v[b17.extractLsb' 2 6,
    b17.extractLsb' 0 2 ++ b18.extractLsb' 4 4,
    b18.extractLsb' 0 4 ++ b19.extractLsb' 6 2,
    b19.extractLsb' 0 6,
    b20.extractLsb' 2 6,
    b20.extractLsb' 0 2 ++ b21.extractLsb' 4 4,
    b21.extractLsb' 0 4 ++ b22.extractLsb' 6 2,
    b22.extractLsb' 0 6]

/-- One cell of LOAD256: the fields a (8 bits), b (7 bits), c (8 bits), d (8 bits) from the top (R113, R116). -/
def cell256 (a : Byte) (b : BitVec 7) (c d : Byte) : Cell := a ++ b ++ c ++ d

/-- The 7-bit constant field of cell i before anything is or-ed into it (R113, R114). -/
def field256 (i : Fin 16) : BitVec 7 := const256[i].extractLsb' 0 7

/-- LOAD256, the scheduler of the 32-byte-key variant, row by row as the spec's table has it (R116; GK5, log 14). -/
def load256 (key iv : List Byte) : Lfsr :=
  let k := byteAt key
  let v := byteAt iv
  let s := ivSlices iv
  let keyHigh : BitVec 4 := (k 31).extractLsb' 4 4
  let keyLow : BitVec 4 := (k 31).extractLsb' 0 4
  #v[cell256 (k 0) (field256 0) (k 21) (k 16),
    cell256 (k 1) (field256 1) (k 22) (k 17),
    cell256 (k 2) (field256 2) (k 23) (k 18),
    cell256 (k 3) (field256 3) (k 24) (k 19),
    cell256 (k 4) (field256 4) (k 25) (k 20),
    cell256 (v 0) (field256 5 ||| s[0].setWidth 7) (k 5) (k 26),
    cell256 (v 1) (field256 6 ||| s[1].setWidth 7) (k 6) (k 27),
    cell256 (v 10) (field256 7 ||| s[2].setWidth 7) (k 7) (v 2),
    cell256 (k 8) (field256 8 ||| s[3].setWidth 7) (v 3) (v 11),
    cell256 (k 9) (field256 9 ||| s[4].setWidth 7) (v 12) (v 4),
    cell256 (v 5) (field256 10 ||| s[5].setWidth 7) (k 10) (k 28),
    cell256 (k 11) (field256 11 ||| s[6].setWidth 7) (v 6) (v 13),
    cell256 (k 12) (field256 12 ||| s[7].setWidth 7) (v 7) (v 14),
    cell256 (k 13) (field256 13) (v 15) (v 8),
    cell256 (k 14) (field256 14 ||| keyHigh.setWidth 7) (v 16) (v 9),
    cell256 (k 15) (field256 15 ||| keyLow.setWidth 7) (k 30) (k 29)]

/-- The scheduler: the key length alone chooses the variant (R110, R126). -/
def schedule (key iv : List Byte) : Lfsr := if key.length = 16 then load128 key iv else load256 key iv

end Sys2Proof.Machine
end

