-- ==== Sys2Proof/Machine/Ops.lean ====
section
/-! DEFINITION. The operations the meanings share: responses and errors, the round, reset, and the taking of what the
step executes next. -/

namespace Sys2Proof.Machine

/-! ## Responses and errors -/

/-- `respond(status, words)`: one response is delivered (R58). -/
def State.respond (s : State) (status : Status) (words : List Word) : State :=
  { s with responses := s.responses ++ [⟨status, words⟩] }

/-- `raise <Status>`: the command ends, the response is the status and no word, and no register is written (R153). There
is no trap entry and no trap return: nothing is saved, so there is nothing to restore (R158, R159). -/
def State.raise (s : State) (status : Status) : Result := .next (s.respond status [])

/-! ## The round -/

/-- The two modes of the LFSR advance (R102, R103). -/
inductive Mode where
  | initialization
  | work
  deriving DecidableEq, Repr

/-- X0 .. X3 of the state at the start of the step (R80, R82). -/
def State.wires (s : State) : Wires := bitReconstruction s.lfsr

/-- F of the state at the start of the step (R92, R94). -/
def State.mixed (s : State) : MixResult := nonlinearF s.r1 s.r2 s.wires.x0 s.wires.x1 s.wires.x2

/-- inj: W[31:1] in initialization mode, 0 in work mode (R21, R102, R103). -/
def State.injection (s : State) : Mode → Cell
  | .initialization => injected s.mixed.w
  | .work => 0#31

/-- The keystream word z = X3 ^ W of the state at the start of the step (R81, R135). -/
def State.keyWord (s : State) : Word := s.wires.x3 ^^^ s.mixed.w

/-- One round: bit reconstruction, F and the advance, all from the pre-state (R82, R175). It writes lfsr, r1, r2. -/
def State.round (s : State) (m : Mode) : State :=
  { s with lfsr := advance s.lfsr (s.injection m), r1 := s.mixed.r1, r2 := s.mixed.r2 }

/-- n work-mode rounds (R138). -/
def State.workRounds (s : State) : Nat → State
  | 0 => s
  | n + 1 => (s.round .work).workRounds n

/-- The words of n work-mode rounds, the first one produced first (R138). -/
def State.keyWords (s : State) : Nat → List Word
  | 0 => []
  | n + 1 => s.keyWord :: (s.round .work).keyWords n

/-! ## Load and reset -/

/-- The writes of an accepted SEED, all at once (R126, R127). -/
def State.load (s : State) (sched : Lfsr) : State :=
  { s with lfsr := sched, r1 := 0#32, r2 := 0#32, phase := .initializing, rc := 0#6 }

/-- The effect of `rst`: UNSEEDED, rc 0, and lfsr, r1, r2 unspecified, that is free values (R170, R171; log 2). Nothing is
answered; responses delivered before stay delivered; `host` is what the host does next. -/
def State.resetBlock (s : State) (host : List HostEvent) : State :=
  { s with
    lfsr := Vector.ofFn fun i => Config.resetCell s.resets i s.lfsr[i]
    r1 := Config.resetR1 s.resets s.r1
    r2 := Config.resetR2 s.resets s.r2
    phase := .unseeded
    rc := 0#6
    host := host
    resets := s.resets + 1 }

/-- The items of the responses that an operation on `s` gave: what it added to the list of responses. -/
def State.itemsGiven (s : State) : Result → List RspItem
  | .next t => (t.responses.drop s.responses.length).flatMap Response.items
  | _ => []

/-- The record of a response of which only some items were delivered; none where nothing was. -/
def stoppedRecord (position : Nat) : List RspItem → List StoppedResponse
  | [] => []
  | items => [⟨position, items⟩]

/-- `rst` in the middle of the operation that would have given `result`: it is abandoned and gets no response. Of the
items of its response the first `delivered` ones have been delivered, never the last one; the others are lost (R58,
R138, R170; log 17). -/
def State.cutShort (s : State) (result : Result) (delivered : Nat) (host : List HostEvent) : State :=
  { s.resetBlock host with
    stopped := s.stopped ++ stoppedRecord s.responses.length ((s.itemsGiven result).dropLast.take delivered) }

/-! ## What the next step executes -/

/-- The host asserts `rst`. -/
def HostEvent.isReset : HostEvent → Bool
  | .rst => true
  | .rstDuring _ => true
  | .byte _ => false
  | .wait => false

/-- The host asserts `rst` before it does anything else. -/
def resetFirst : List HostEvent → Bool
  | e :: _ => e.isReset
  | [] => false

/-- The host asserts `rst` in the middle of the step that stands before: the items delivered by then, and what the host
does afterwards. -/
def cutFirst : List HostEvent → Option (Nat × List HostEvent)
  | .rstDuring items :: t => some (items, t)
  | _ => none

/-- The state with another future of the host. -/
def State.withHost (s : State) (host : List HostEvent) : State := { s with host := host }

/-- The bytes the host offers before it does anything else. -/
def leadingBytes : List HostEvent → List Byte
  | .byte b :: t => b :: leadingBytes t
  | _ => []

/-- What the host does after the bytes it offers first. -/
def afterBytes : List HostEvent → List HostEvent
  | .byte _ :: t => afterBytes t
  | h => h

/-- The events of a host that offers these bytes, in order. -/
def offer (bytes : List Byte) : List HostEvent := bytes.map .byte

/-- A command applies to a state that is UNSEEDED or READY. While INITIALIZING it is not taken: it is held, so its packet
stays offered before everything else the host does, and nothing else changes (R52, R134, U15; log 9). -/
def State.takeCommand (s : State) (i : Instr) (meaning : State → Result) : Result :=
  if s.phase = .initializing then .next (s.withHost (offer (encode i) ++ s.host)) else meaning s

/-- The host's list without the `wait` that the step uses up (log 3). -/
def dropWait : List HostEvent → List HostEvent
  | .wait :: t => t
  | h => h

/-- The host's list without the resets at its head. -/
def dropResets : List HostEvent → List HostEvent
  | .rst :: t => dropResets t
  | .rstDuring _ :: t => dropResets t
  | h => h

/-- The host's list without the resets at its head that would come in the middle of the step before. -/
def dropCuts : List HostEvent → List HostEvent
  | .rstDuring _ :: t => dropCuts t
  | h => h

/-- What a step does, with the host's list after it. -/
inductive Fetched where
  /-- It executes this instruction. -/
  | execute (i : Instr) (host : List HostEvent)
  /-- It begins this instruction, and a reset comes in the middle, when so many items were delivered. -/
  | cut (i : Instr) (delivered : Nat) (host : List HostEvent)
  /-- It takes a reset. -/
  | reset (host : List HostEvent)
  /-- No complete packet is offered: the block waits and its state holds. -/
  | idle (host : List HostEvent)
  /-- The spec defines no step. -/
  | stuck
  deriving DecidableEq, Repr

/-- UNSEEDED or READY: the first complete packet is taken whole, and a reset that stands right behind it as `rstDuring`
comes in the middle of its execution. An incomplete packet waits for the rest, and every reset drops its bytes (R52,
R57, R168, R170; log 3, 4, 17). -/
def fetchCommand (host : List HostEvent) : Fetched :=
  match decode .hostCommand (leadingBytes host) with
  | .instr i rest =>
    match cutFirst (offer rest ++ afterBytes host) with
    | some (delivered, t) => .cut i delivered t
    | none => .execute i (offer rest ++ afterBytes host)
  | .reject _ =>
    match afterBytes host with
    | .rst :: t => .reset t
    | .rstDuring _ :: t => .reset t
    | .wait :: t => .idle (offer (leadingBytes host) ++ t)
    | _ => .idle host

/-- INITIALIZING: the sequencer's operation is decoded from the state, offered bytes are held, and a reset comes before
everything. In the middle of a sequencer's round it is the same as before it, because no round's response has an item
before its last one (R52, R129, R131, R157, R170). -/
def fetchSequencer (word : Byte) (host : List HostEvent) : Fetched :=
  match host with
  | .rst :: t => .reset t
  | .rstDuring _ :: t => .reset t
  | h =>
    match decode .sequencerState [word] with
    | .instr i _ => .execute i (dropWait h)
    | .reject _ => .stuck

/-- What the next step does (R129). -/
def State.fetch (s : State) : Fetched :=
  if s.phase = .initializing then fetchSequencer s.sequencerWord s.host else fetchCommand s.host

/-! ## A table word, placed where the next step takes it (log 6, 7) -/

/-- A state that can take a command: an INITIALIZING one becomes UNSEEDED (log 7). -/
def State.leaveInitializing (s : State) : State :=
  if s.phase = .initializing then { s with phase := .unseeded, rc := 0#6 } else s

/-- Place a packet's bytes before everything else the host does, with no reset in the middle of its execution. -/
def State.placePacket (s : State) (bytes : List Byte) : State :=
  match decode .hostCommand bytes with
  | .instr _ rest =>
    s.leaveInitializing.withHost (offer (bytes.take (bytes.length - rest.length)) ++ dropCuts s.host)
  | .reject _ => s

/-- Place a sequencer word in `phase` and `rc`, with no reset coming first. -/
def State.placeSequencer (s : State) (word : Byte) : State :=
  { s with phase := .initializing, rc := word.extractLsb' 0 6, host := dropResets s.host }

/-- Place a table word in the space it is read in. -/
def State.placeTableWord (s : State) (bytes : List Byte) : State :=
  match tableSpace bytes with
  | .sequencerState => s.placeSequencer (byteAt bytes 0)
  | .hostCommand => s.placePacket bytes

end Sys2Proof.Machine
end

