-- ==== Sys2Proof/Machine/Commands.lean ====
section
/-! DEFINITION. The host commands SEED, NEXT and FILL and the illegal opcodes (spec/45_generator_commands.md R125 to
R128, R135 to R139; spec/60_exceptions.md R150 to R157). A rejected command answers its status and goes on. -/

namespace Sys2Proof.Machine

/-- SEED: the checks of R125 in their order, then the writes of R126. An accepted SEED gets its response from FINISH. -/
def execSeed (key iv : List Byte) (s : State) : Result :=
  s.takeCommand (.seed key iv) fun s =>
    if s.phase ≠ .unseeded then s.raise .errAlreadySeeded
    else if !keyLengthOk key.length then s.raise .errKeySize
    else if !ivLengthOk key.length iv.length then s.raise .errIvSize
    else .next (s.load (schedule key iv))

/-- NEXT: one word and one work-mode round (R135). -/
def execNext (s : State) : Result :=
  s.takeCommand .next fun s =>
    if s.phase ≠ .ready then s.raise .errNotReady
    else .next ((s.round .work).respond .ok [s.keyWord])

/-- FILL: n words and n work-mode rounds, as a whole (R138). -/
def execFill (n : BitVec 32) (s : State) : Result :=
  s.takeCommand (.fill n) fun s =>
    if s.phase ≠ .ready then s.raise .errNotReady
    else .next ((s.workRounds n.toNat).respond .ok (s.keyWords n.toNat))

/-- An opcode with no meaning, whatever it is (R156). -/
def execIllegal (opcode : Byte) (s : State) : Result :=
  s.takeCommand (.illegal opcode) fun s => s.raise .errIllegalOpcode

end Sys2Proof.Machine
end

