-- ==== Sys2Proof/Machine/Sequencer.lean ====
section
/-! DEFINITION. The sequencer's operations INIT_ROUND and FINISH (spec/45_generator_commands.md R129 to R133), and SEED
as one big step (R128). -/

namespace Sys2Proof.Machine

/-- The effect of INIT_ROUND: a round in initialization mode, counted in rc (R130). -/
def State.countedRound (s : State) : State := { s.round .initialization with rc := s.rc + 1#6 }

/-- The effect of FINISH: a work-mode round whose word is discarded, then READY and the response to the SEED that began
the initialization (R132). -/
def State.finishingRound (s : State) : State :=
  { s.round .work with phase := .ready, rc := 0#6 }.respond .ok []

/-- INIT_ROUND (R130). `r` is rc[4:0] of the word that selects it, so its precondition is that word: INITIALIZING and
rc = r (log 10). -/
def execInitRound (r : BitVec 5) (s : State) : Result :=
  if s.phase = .initializing ∧ s.rc = r.setWidth 6 then .next s.countedRound else .fault .sequencerNotSelected

/-- FINISH (R132). Its precondition is INITIALIZING and rc = 32 (log 10). -/
def execFinish (s : State) : Result :=
  if s.phase = .initializing ∧ s.rc = 32#6 then .next s.finishingRound else .fault .sequencerNotSelected

/-- n INIT_ROUNDs in a row (R128). -/
def State.countedRounds (s : State) : Nat → State
  | 0 => s
  | n + 1 => s.countedRound.countedRounds n

/-- SEED_BIG: an accepted SEED, its 32 INIT_ROUNDs and FINISH as one transition from UNSEEDED to READY (R128, D17).
`step` makes the small steps; this is the form they are compared with. -/
def State.seedBig (s : State) (key iv : List Byte) : State :=
  ((s.load (schedule key iv)).countedRounds Config.initRounds).finishingRound

end Sys2Proof.Machine
end

