-- ==== Sys2Proof/Machine/Dispatch.lean ====
section
/-! DEFINITION. One arm per constructor of Instr, each one direct call of the instruction's meaning. -/

namespace Sys2Proof.Machine

def exec (i : Instr) (s : State) : Host.Outcome State Fault Refusal :=
  match i with
  | .seed key iv => Sys2Proof.Machine.execSeed key iv s
  | .next => Sys2Proof.Machine.execNext s
  | .fill n => Sys2Proof.Machine.execFill n s
  | .illegal opcode => Sys2Proof.Machine.execIllegal opcode s
  | .initRound r => Sys2Proof.Machine.execInitRound r s
  | .finish => Sys2Proof.Machine.execFinish s

end Sys2Proof.Machine
end

