-- ==== Sys2Proof/Machine/Step.lean ====
section
/-! DEFINITION. One step of the machine: a command as a whole, one sequencer round, a reset, a command with a reset in
its middle, or waiting (spec/30_encoding.md R52, spec/45_generator_commands.md R129, R131,
spec/70_reset_and_hazards.md R170, R177). -/

namespace Sys2Proof.Machine

/-- One step. What it does stands in `phase`, `rc` and `host`; the packet it takes is used up before its meaning runs. -/
def step (s : State) : Host.Outcome State Fault Refusal :=
  match s.fetch with
  | .execute i host => exec i (s.withHost host)
  | .cut i delivered host => .next (s.cutShort (exec i (s.withHost host)) delivered host)
  | .reset host => .next (s.resetBlock host)
  | .idle host => .next (s.withHost host)
  | .stuck => .fault .noSequencerOperation

/-- The state whose next step runs the instruction of this table word: a packet is offered before everything else, a
sequencer word is put into `phase` and `rc` (log 6, 7). -/
def State.withFetchWord (s : State) (nbits w : Nat) : State := s.placeTableWord (tableBytes nbits w)

end Sys2Proof.Machine
end

