-- ==== Sys2Proof/Machine/Script.lean ====
section
/-! DEFINITION. Command scripts: the spec's textual form of what a host does (spec/30_encoding.md R63, R64), as terms,
with the assembler that turns a line into the host's events and refuses what has no packet. -/

namespace Sys2Proof.Machine

/-- One line of a script, the pseudo-commands of R64 among them. -/
inductive ScriptLine where
  | seed (key iv : List Byte)
  | next
  | fill (n : Nat)
  | raw (bytes : List Byte)
  | reset
  | seed128 (key iv : List Byte)
  | seed256 (key iv : List Byte)
  | nextTimes (n : Nat)
  | restart (key iv : List Byte)
  deriving DecidableEq, Repr

/-- The events of one instruction's packet. -/
def offerInstr (i : Instr) : List HostEvent := offer (encode i)

/-- The line `SEED`: refused when a length does not fit its field (R54, R63). -/
def assembleSeed (key iv : List Byte) : Option (List HostEvent) :=
  if seedLengthsFit key iv then some (offerInstr (.seed key iv)) else none

/-- The assembler of one line; `none` is its refusal (R63, R64). -/
def ScriptLine.assemble : ScriptLine → Option (List HostEvent)
  | .seed key iv => assembleSeed key iv
  | .next => some (offerInstr .next)
  | .fill n => if n < 2 ^ 32 then some (offerInstr (.fill (BitVec.ofNat 32 n))) else none
  | .raw bytes => some (offer bytes)
  | .reset => some [.rst]
  | .seed128 key iv => if key.length = 16 ∧ iv.length = 16 then assembleSeed key iv else none
  | .seed256 key iv => if key.length = 32 ∧ iv.length = 23 then assembleSeed key iv else none
  | .nextTimes n => some (List.replicate n (offerInstr .next)).flatten
  | .restart key iv => (assembleSeed key iv).map (.rst :: ·)

/-- The assembler of a script, line after line. -/
def assembleScript : List ScriptLine → Option (List HostEvent)
  | [] => some []
  | line :: rest =>
    match line.assemble, assembleScript rest with
    | some events, some more => some (events ++ more)
    | _, _ => none

end Sys2Proof.Machine
end

