-- ==== Sys2Proof/Safety.lean ====
section
/-! DEFINITION. What a safe state is, and the few words the statements are written in. -/

namespace Sys2Proof.Machine

/-- No cell holds the bit pattern 0 (R19, R140; C5). -/
abbrev CellsNonzero (l : Lfsr) : Prop := ∀ i : Fin 16, l[i] ≠ 0#31

/-- The invariant of the reachable states: rc is at most 32 and is 0 outside INITIALIZING (R13), and from SEED on no cell
is 0 (R19, R140). -/
abbrev State.Inv (s : State) : Prop :=
  s.rc.toNat ≤ 32 ∧ (s.phase ≠ .initializing → s.rc = 0#6) ∧ (s.phase ≠ .unseeded → CellsNonzero s.lfsr)

/-- The lengths of key and IV that SEED accepts (R125, R126). -/
abbrev SeedLengthsValid (key iv : List Byte) : Prop :=
  (key.length = 16 ∧ iv.length = 16) ∨ (key.length = 32 ∧ iv.length = 23)

/-- Two states whose past and future look the same at the ports and that agree on all a command reads: the registers may
differ in UNSEEDED, where no command reads them (R20, R171). The free values' counter may differ too. -/
abbrev SameToHost (s t : State) : Prop :=
  s.phase = t.phase ∧ s.rc = t.rc ∧ s.host = t.host ∧ s.responses = t.responses ∧ s.stopped = t.stopped ∧
    (s.phase ≠ .unseeded → s.lfsr = t.lfsr ∧ s.r1 = t.r1 ∧ s.r2 = t.r2)

/-- n steps, stopping at the first fault or refusal; `Host.Core.run` of this machine. -/
def run : Nat → State → Result
  | 0, s => .next s
  | n + 1, s =>
    match step s with
    | .next t => run n t
    | stop => stop

/-- The same instruction n times, stopping where it stops. -/
def repeatExec (i : Instr) : Nat → State → Result
  | 0, s => .next s
  | n + 1, s =>
    match exec i s with
    | .next t => repeatExec i n t
    | stop => stop

end Sys2Proof.Machine
end

