-- ==== Sys2Proof/Certificates/Slice0/Obligations.lean ====
section
/-! DEFINITION. The statements for the provers, in the order of OBLIGATIONS.json. -/

open Sys2Proof Sys2Proof.Machine

/-! ## Decoding and encoding -/

/-- Words written out from the spec's encodings (R53 to R62, the examples of section 3.1) decode to their instructions. -/
def Obligations.SpecWordsDecode : Prop :=
  decode .hostCommand [0x02] = .instr .next [] ∧
  decode .hostCommand [0x03, 0x01, 0x02, 0x03, 0x04] = .instr (.fill 0x01020304) [] ∧
  decode .hostCommand [0x01, 0x04, 0x02, 0x00, 0x01, 0x02, 0x03, 0xAA, 0xBB] =
    .instr (.seed [0x00, 0x01, 0x02, 0x03] [0xAA, 0xBB]) [] ∧
  decode .hostCommand [0x01, 0x02, 0x00, 0x02, 0x02, 0x02] = .instr (.seed [0x02, 0x02] []) [0x02] ∧
  decode .hostCommand [0x00] = .instr (.illegal 0x00) [] ∧
  decode .hostCommand [0xFF, 0x02] = .instr (.illegal 0xFF) [0x02] ∧
  decode .sequencerState [0b01000101] = .instr (.initRound 5) [] ∧
  decode .sequencerState [0b01100000] = .instr .finish []

/-- Decoding what the encoder wrote gives the instruction back, whatever follows it, for every instruction with every
operand an encoding admits (R53 to R62). -/
def Obligations.DecodeInvertsEncode : Prop :=
  ∀ (i : Instr) (rest : List Byte), WellFormed i → decode i.space (encode i ++ rest) = .instr i rest

/-- What the decoders read as an instruction is exactly its encoding: no other bytes mean it, and what follows is left
(R57, R62). -/
def Obligations.DecodedBytesAreTheEncoding : Prop :=
  (∀ (bytes rest : List Byte) (i : Instr), decode .hostCommand bytes = .instr i rest →
    i.space = .hostCommand ∧ WellFormed i ∧ bytes = encode i ++ rest) ∧
  (∀ (w : Byte) (rest : List Byte) (i : Instr), decode .sequencerState [w] = .instr i rest →
    i.space = .sequencerState ∧ encode i = [w] ∧ rest = [])

/-- R57: a byte string splits in exactly one way into complete packets and at most one incomplete one. -/
def Obligations.ByteStreamSplitsInExactlyOneWay : Prop :=
  ∀ bytes : List Byte, ∃! p : List Instr × List Byte,
    (∀ i ∈ p.1, i.space = .hostCommand ∧ WellFormed i) ∧
      bytes = (p.1.map encode).flatten ++ p.2 ∧ ∃ why, decode .hostCommand p.2 = .reject why

/-- R57: what the packet decoder does not take is incomplete, never malformed: more bytes would make it a packet. -/
def Obligations.RejectedBytesBeginAPacket : Prop :=
  ∀ (bytes : List Byte) (why : DecodeError), decode .hostCommand bytes = .reject why →
    why = .incompletePacket ∧
      ∃ (more : List Byte) (i : Instr), more ≠ [] ∧ decode .hostCommand (bytes ++ more) = .instr i []

/-- R129: the sequencer's choice from `phase` and `rc`, for every state. -/
def Obligations.SequencerChoosesByPhaseAndCounter : Prop :=
  ∀ s : State,
    decode .sequencerState [s.sequencerWord] =
      if s.phase = .initializing ∧ s.rc.toNat ≤ 31 then .instr (.initRound (s.rc.extractLsb' 0 5)) []
      else if s.phase = .initializing ∧ s.rc.toNat = 32 then .instr .finish []
      else .reject .noSequencerOperation

/-! ## A step runs the decoded instruction -/

/-- In UNSEEDED and READY a step takes the packet the host offers first and is exec of it; the packet's bytes are used up
before its meaning runs (the host's list is the model's, log 3). A reset in the middle of the step is the matter of
`ResetStopsAResponse`. -/
def Obligations.StepRunsTheOfferedPacket : Prop :=
  ∀ (s : State) (i : Instr) (rest : List Byte), s.phase ≠ .initializing →
    decode .hostCommand (leadingBytes s.host) = .instr i rest →
    cutFirst (offer rest ++ afterBytes s.host) = none →
      step s = exec i (s.withHost (offer rest ++ afterBytes s.host))

/-- In INITIALIZING, with no reset coming first, a step is exec of the operation the sequencer's word selects. -/
def Obligations.StepRunsTheSequencerOperation : Prop :=
  ∀ (s : State) (i : Instr), s.phase = .initializing → resetFirst s.host = false →
    decode .sequencerState [s.sequencerWord] = .instr i [] →
      step s = exec i (s.withHost (dropWait s.host))

/-- A well-formed command that the host offers as the encoder writes it is what the next step runs, whatever the host
does after it, but for a reset in the middle of the step (R52, R57; log 3). -/
def Obligations.StepRunsTheEncodedCommand : Prop :=
  ∀ (s : State) (i : Instr) (after : List HostEvent), s.phase ≠ .initializing → i.space = .hostCommand →
    WellFormed i → cutFirst after = none → step (s.withHost (offer (encode i) ++ after)) = exec i (s.withHost after)

/-! ## The datapath -/

/-- R70: ROT31 moves bit i to bit (i + k) mod 31; its shift form on 32-bit values; it fixes 0 and 2^31-1, is a bijection
and keeps the number of one bits. -/
def Obligations.Rot31MovesEveryBit : Prop :=
  ∀ k : Nat, 0 < k → k < 31 →
    (∀ (x : Cell) (i : Nat), i < 31 → (rot31 x k).getLsbD ((i + k) % 31) = x.getLsbD i) ∧
    (∀ x : Cell, (rot31 x k).setWidth 32 =
      ((x.setWidth 32 <<< k) ||| (x.setWidth 32 >>> (31 - k))) &&& 0x7FFFFFFF#32) ∧
    rot31 0#31 k = 0#31 ∧ rot31 0x7FFFFFFF#31 k = 0x7FFFFFFF#31 ∧
    Function.Bijective (fun x : Cell => rot31 x k) ∧
    (∀ x : Cell, ((List.range 31).map (rot31 x k).getLsbD).count true = ((List.range 31).map x.getLsbD).count true)

/-- R71, R72: ADD31 folds the carry of the sum back, and the laws (a) to (g). -/
def Obligations.Add31IsFieldAddition : Prop :=
  ∀ x y z : Cell,
    (add31 x y).toNat = (x.toNat + y.toNat) % 2 ^ 31 + (x.toNat + y.toNat) / 2 ^ 31 ∧
    (add31 x y).toNat ≤ 2147483647 ∧
    (add31 x y).toNat % 2147483647 = (x.toNat + y.toNat) % 2147483647 ∧
    (add31 x y = 0#31 ↔ x = 0#31 ∧ y = 0#31) ∧
    ((x ≠ 0#31 ∨ y ≠ 0#31) → z ≠ 0#31 → z.toNat % 2147483647 = (x.toNat + y.toNat) % 2147483647 → z = add31 x y) ∧
    (x ≠ 0#31 → add31 x (0x7FFFFFFF#31 - x) = 0x7FFFFFFF#31) ∧
    add31 x y = add31 y x ∧
    add31 (add31 x y) z = add31 x (add31 y z) ∧
    add31 x 0#31 = x ∧ (x ≠ 0#31 → add31 x 0x7FFFFFFF#31 = x) ∧ add31 0#31 0x7FFFFFFF#31 = 0x7FFFFFFF#31

/-- R73: ROT31 multiplies by 2^k modulo P, keeps 0 alone at 0, composes, and gives the feedback its congruence. -/
def Obligations.Rot31MultipliesByPowersOfTwo : Prop :=
  (∀ (x : Cell) (k : Nat), 0 < k → k < 31 →
    (rot31 x k).toNat % 2147483647 = x.toNat * 2 ^ k % 2147483647 ∧
    (x.toNat < 2147483647 → (rot31 x k).toNat = x.toNat * 2 ^ k % 2147483647) ∧
    rot31 0x7FFFFFFF#31 k = 0x7FFFFFFF#31 ∧ (rot31 x k = 0#31 ↔ x = 0#31)) ∧
  (∀ (x : Cell) (j k : Nat), 0 < j → j < 31 → 0 < k → k < 31 →
    rot31 (rot31 x j) k = if (j + k) % 31 = 0 then x else rot31 x ((j + k) % 31)) ∧
  (∀ (l : Lfsr) (inj : Cell),
    (feedback l inj).toNat % 2147483647 =
      ((1 + 2 ^ 8) * l[0].toNat + 2 ^ 20 * l[4].toNat + 2 ^ 21 * l[10].toNat + 2 ^ 17 * l[13].toNat +
        2 ^ 15 * l[15].toNat + inj.toNat) % 2147483647)

/-- R100: the feedback value is the member of 1 .. 2^31-1 that is congruent to the weighted sum of the taps; before the
replacement the sum is 0 exactly when every tap and the injected value are 0. -/
def Obligations.FeedbackIsTheNonzeroRepresentative : Prop :=
  ∀ (l : Lfsr) (inj v : Cell),
    (v = feedback l inj ↔
      v ≠ 0#31 ∧ v.toNat % 2147483647 =
        (257 * l[0].toNat + 2 ^ 20 * l[4].toNat + 2 ^ 21 * l[10].toNat + 2 ^ 17 * l[13].toNat +
          2 ^ 15 * l[15].toNat + inj.toNat) % 2147483647) ∧
    (feedbackSum l inj = 0#31 ↔
      l[0] = 0#31 ∧ l[4] = 0#31 ∧ l[10] = 0#31 ∧ l[13] = 0#31 ∧ l[15] = 0#31 ∧ inj = 0#31)

/-- R101: the advance discards cell 0, moves every other cell down by one and puts the feedback of the old cells on top. -/
def Obligations.AdvanceShiftsAndInserts : Prop :=
  ∀ (l : Lfsr) (inj : Cell),
    (∀ i : Fin 15, (advance l inj)[i.val] = l[i.val + 1]) ∧ (advance l inj)[15] = feedback l inj

/-- R80: bit reconstruction in the masked-shift form the rule gives beside its concatenations. -/
def Obligations.BitReconstructionByMasks : Prop :=
  ∀ l : Lfsr,
    let c := fun (i : Fin 16) => (l[i]).setWidth 32
    (bitReconstruction l).x0 = ((c 15 &&& 0x7FFF8000#32) <<< 1 ||| (c 14 &&& 0xFFFF#32)) ∧
    (bitReconstruction l).x1 = ((c 11 &&& 0xFFFF#32) <<< 16 ||| (c 9 >>> 15)) ∧
    (bitReconstruction l).x2 = ((c 7 &&& 0xFFFF#32) <<< 16 ||| (c 5 >>> 15)) ∧
    (bitReconstruction l).x3 = ((c 2 &&& 0xFFFF#32) <<< 16 ||| (c 0 >>> 15))

/-- R85, R86: the mixers by the shifts that make a 32-bit rotation (R7); each is linear and a bijection. -/
def Obligations.MixersAreLinearBijections : Prop :=
  let rotl : Word → Nat → Word := fun x k => (x <<< k) ||| (x >>> (32 - k))
  (∀ x : Word, mixL1 x = x ^^^ rotl x 2 ^^^ rotl x 10 ^^^ rotl x 18 ^^^ rotl x 24) ∧
  (∀ x : Word, mixL2 x = x ^^^ rotl x 8 ^^^ rotl x 14 ^^^ rotl x 22 ^^^ rotl x 30) ∧
  (∀ a b : Word, mixL1 (a ^^^ b) = mixL1 a ^^^ mixL1 b ∧ mixL2 (a ^^^ b) = mixL2 a ^^^ mixL2 b) ∧
  mixL1 0#32 = 0#32 ∧ mixL2 0#32 = 0#32 ∧ mixL1 0xFFFFFFFF#32 = 0xFFFFFFFF#32 ∧ mixL2 0xFFFFFFFF#32 = 0xFFFFFFFF#32 ∧
  Function.Bijective mixL1 ∧ Function.Bijective mixL2

/-- R90: SUB passes the bytes, most significant first, through S0, S1, S0, S1, and it is a bijection, because both tables
are permutations of the bytes. -/
def Obligations.SubstitutionIsABijection : Prop :=
  (∀ b3 b2 b1 b0 : Byte, substitute (b3 ++ b2 ++ b1 ++ b0) = sbox0 b3 ++ sbox1 b2 ++ sbox0 b1 ++ sbox1 b0) ∧
  substitute 0#32 = 0x3E553E55#32 ∧ substitute 0xFFFFFFFF#32 = 0x60F260F2#32 ∧
  Function.Bijective sbox0 ∧ Function.Bijective sbox1 ∧ Function.Bijective substitute

/-- R88, R89: the tables by the constructions the rules give to check them: S0 from three 4-bit tables and a rotation by
5, S1 from the inverse modulo x^8 + x^7 + x^3 + x + 1, a linear map and 0x55. -/
def Obligations.TablesHaveTheirConstructions : Prop :=
  let p1 : BitVec 4 → BitVec 4 := fun i => [9#4, 15, 0, 14, 15, 15, 2, 10, 0, 4, 0, 12, 7, 5, 3, 9].getD i.toNat 0
  let p2 : BitVec 4 → BitVec 4 := fun i => [8#4, 13, 6, 5, 7, 0, 12, 4, 11, 1, 14, 10, 15, 3, 9, 2].getD i.toNat 0
  let p3 : BitVec 4 → BitVec 4 := fun i => [2#4, 6, 10, 6, 0, 13, 10, 15, 3, 3, 13, 5, 0, 9, 12, 13].getD i.toNat 0
  let double : Byte → Byte := fun a => if a.msb then (a <<< 1) ^^^ 0x8B#8 else a <<< 1
  let mul : Byte → Byte → Byte := fun a b =>
    (List.range 8).foldr (fun i acc => double acc ^^^ if b.getLsbD i then a else 0#8) 0#8
  let linear : Byte → Byte := fun y =>
    (List.range 8).foldr (fun i acc =>
      acc ^^^ if y.getLsbD i then [0x97#8, 0x3E, 0x6D, 0xCB, 0xEE, 0xDD, 0xBB, 0x77].getD i 0 else 0#8) 0#8
  (∀ a c : BitVec 4,
    let a1 := a ^^^ p1 c
    let c1 := c ^^^ p2 a1
    let a2 := a1 ^^^ p3 c1
    sbox0 (a ++ c) = (a2 ++ c1 : Byte).rotateLeft 5) ∧
  (∀ b : Byte, ∃ inverse : Byte, (if b = 0#8 then inverse = 0#8 else mul b inverse = 1#8) ∧
    sbox1 b = linear inverse ^^^ 0x55#8)

/-- R92, R93: F in the rule's arithmetic on 32-bit words; W and both new registers come from the old r1 and r2. -/
def Obligations.NonlinearFunctionByShifts : Prop :=
  ∀ r1 r2 x0 x1 x2 : Word,
    let w1 := r1 + x1
    let w2 := r2 ^^^ x2
    (nonlinearF r1 r2 x0 x1 x2).w = (r1 ^^^ x0) + r2 ∧
    (nonlinearF r1 r2 x0 x1 x2).r1 = substitute (mixL1 ((w1 <<< 16) ||| (w2 >>> 16))) ∧
    (nonlinearF r1 r2 x0 x1 x2).r2 = substitute (mixL2 ((w2 <<< 16) ||| (w1 >>> 16)))

/-! ## The scheduler -/

/-- R112: LOAD128 puts key byte, constant and IV byte into their fields of every cell, no cell is 0 or 2^31-1, and
different operands give different cells. -/
def Obligations.Load128PlacesEveryByte : Prop :=
  (∀ (key iv : List Byte) (i : Fin 16),
    ((load128 key iv)[i]).extractLsb' 23 8 = byteAt key i ∧
    ((load128 key iv)[i]).extractLsb' 8 15 = const128[i] ∧
    ((load128 key iv)[i]).extractLsb' 0 8 = byteAt iv i ∧
    (load128 key iv)[i] ≠ 0#31 ∧ (load128 key iv)[i] ≠ 0x7FFFFFFF#31) ∧
  (∀ key iv key' iv' : List Byte, key.length = 16 → iv.length = 16 → key'.length = 16 → iv'.length = 16 →
    load128 key iv = load128 key' iv' → key = key' ∧ iv = iv')

/-- R115: the eight slices, first to last, are the 48 bits of iv[17] .. iv[22] in order. -/
def Obligations.IvSlicesCutTheLastSixBytes : Prop :=
  ∀ iv : List Byte,
    let s := ivSlices iv
    s[0] ++ s[1] ++ s[2] ++ s[3] ++ s[4] ++ s[5] ++ s[6] ++ s[7] =
      byteAt iv 17 ++ byteAt iv 18 ++ byteAt iv 19 ++ byteAt iv 20 ++ byteAt iv 21 ++ byteAt iv 22

/-- R116: LOAD256 field by field, the constant field by its value; no cell is 0, cells 0 to 4 and 13 to 15 are never
2^31-1 and the others can be, and different keys or IVs give different cells. -/
def Obligations.Load256PlacesEveryByte : Prop :=
  (∀ key iv : List Byte,
    let k := byteAt key
    let v := byteAt iv
    let n := fun i => (v i).toNat
    (load256 key iv).toList.map (fun c => c.extractLsb' 23 8) =
      [k 0, k 1, k 2, k 3, k 4, v 0, v 1, v 10, k 8, k 9, v 5, k 11, k 12, k 13, k 14, k 15] ∧
    (load256 key iv).toList.map (fun c => (c.extractLsb' 16 7).toNat) =
      [0x22, 0x2F, 0x24, 0x2A, 0x6D,
        0x40 + n 17 / 4, 0x40 + (n 17 % 4 * 16 + n 18 / 16), 0x40 + (n 18 % 16 * 4 + n 19 / 64), 0x40 + n 19 % 64,
        0x40 + n 20 / 4, 0x40 + (n 20 % 4 * 16 + n 21 / 16), 0x40 + (n 21 % 16 * 4 + n 22 / 64), 0x40 + n 22 % 64,
        0x52, 0x10 + (k 31).toNat / 16, 0x30 + (k 31).toNat % 16] ∧
    (load256 key iv).toList.map (fun c => c.extractLsb' 8 8) =
      [k 21, k 22, k 23, k 24, k 25, k 5, k 6, k 7, v 3, v 12, k 10, v 6, v 7, v 15, v 16, k 30] ∧
    (load256 key iv).toList.map (fun c => c.extractLsb' 0 8) =
      [k 16, k 17, k 18, k 19, k 20, k 26, k 27, v 2, v 11, v 4, k 28, v 13, v 14, v 8, v 9, k 29]) ∧
  (∀ (key iv : List Byte) (i : Fin 16), (load256 key iv)[i] ≠ 0#31 ∧
    (i.val ≤ 4 ∨ 13 ≤ i.val → (load256 key iv)[i] ≠ 0x7FFFFFFF#31)) ∧
  (∀ i : Fin 16, 5 ≤ i.val → i.val ≤ 12 →
    (load256 (List.replicate 32 0xFF) (List.replicate 23 0xFF))[i] = 0x7FFFFFFF#31) ∧
  (∀ key iv key' iv' : List Byte, key.length = 32 → iv.length = 23 → key'.length = 32 → iv'.length = 23 →
    load256 key iv = load256 key' iv' → key = key' ∧ iv = iv')

/-! ## The instructions -/

/-- R125: what SEED answers in a state that takes commands, its checks in their order. -/
def Obligations.SeedChecksInOrder : Prop :=
  ∀ (key iv : List Byte) (s : State), s.phase ≠ .initializing →
    exec (.seed key iv) s =
      if s.phase ≠ .unseeded then .next { s with responses := s.responses ++ [⟨.errAlreadySeeded, []⟩] }
      else if key.length ≠ 16 ∧ key.length ≠ 32 then
        .next { s with responses := s.responses ++ [⟨.errKeySize, []⟩] }
      else if (key.length = 16 ∧ iv.length ≠ 16) ∨ (key.length = 32 ∧ iv.length ≠ 23) then
        .next { s with responses := s.responses ++ [⟨.errIvSize, []⟩] }
      else .next (s.load (schedule key iv))

/-- R126, R127: an accepted SEED loads the 16 cells, clears r1, r2 and rc, and enters INITIALIZING with no response; the
host's list, the responses and the free values' counter stay. -/
def Obligations.SeedLoadsTheGenerator : Prop :=
  ∀ (key iv : List Byte) (s : State), s.phase = .unseeded → SeedLengthsValid key iv →
    exec (.seed key iv) s =
      .next { s with
        lfsr := if key.length = 16 then load128 key iv else load256 key iv
        r1 := 0#32
        r2 := 0#32
        phase := .initializing
        rc := 0#6 }

/-- R130: INIT_ROUND in the state that selects it. -/
def Obligations.InitRoundFeedsBackTheWord : Prop :=
  ∀ (r : BitVec 5) (s : State), s.phase = .initializing → s.rc = r.setWidth 6 →
    let x := bitReconstruction s.lfsr
    let f := nonlinearF s.r1 s.r2 x.x0 x.x1 x.x2
    exec (.initRound r) s =
      .next { s with lfsr := advance s.lfsr (f.w.extractLsb' 1 31), r1 := f.r1, r2 := f.r2, rc := s.rc + 1#6 }

/-- R132: FINISH in the state that selects it. -/
def Obligations.FinishEntersReady : Prop :=
  ∀ s : State, s.phase = .initializing → s.rc = 32#6 →
    let x := bitReconstruction s.lfsr
    let f := nonlinearF s.r1 s.r2 x.x0 x.x1 x.x2
    exec .finish s =
      .next { s with
        lfsr := advance s.lfsr 0#31
        r1 := f.r1
        r2 := f.r2
        phase := .ready
        rc := 0#6
        responses := s.responses ++ [⟨.ok, []⟩] }

/-- R135: NEXT in READY gives one word and makes one work-mode round; in UNSEEDED it is ERR_NOT_READY. -/
def Obligations.NextGivesOneWord : Prop :=
  (∀ s : State, s.phase = .ready →
    let x := bitReconstruction s.lfsr
    let f := nonlinearF s.r1 s.r2 x.x0 x.x1 x.x2
    exec .next s =
      .next { s with
        lfsr := advance s.lfsr 0#31
        r1 := f.r1
        r2 := f.r2
        responses := s.responses ++ [⟨.ok, [x.x3 ^^^ f.w]⟩] }) ∧
  (∀ s : State, s.phase = .unseeded →
    exec .next s = .next { s with responses := s.responses ++ [⟨.errNotReady, []⟩] })

/-- R138: FILL n in READY answers n words, and its words and end state are those of n NEXTs in a row; in UNSEEDED it is
ERR_NOT_READY for every n. -/
def Obligations.FillIsRepeatedNext : Prop :=
  (∀ (n : BitVec 32) (s : State), s.phase = .ready →
    ∃ (words : List Word) (t : State),
      words.length = n.toNat ∧
      t.phase = .ready ∧ t.rc = s.rc ∧ t.host = s.host ∧ t.resets = s.resets ∧ t.stopped = s.stopped ∧
      exec (.fill n) s = .next { t with responses := s.responses ++ [⟨.ok, words⟩] } ∧
      repeatExec .next n.toNat s =
        .next { t with responses := s.responses ++ words.map fun z => ⟨.ok, [z]⟩ }) ∧
  (∀ (n : BitVec 32) (s : State), s.phase = .unseeded →
    exec (.fill n) s = .next { s with responses := s.responses ++ [⟨.errNotReady, []⟩] })

/-- R139: FILL a and then FILL b give the words and the end state of FILL (a + b). -/
def Obligations.FillSplits : Prop :=
  ∀ (a b : BitVec 32) (s : State), s.phase = .ready → a.toNat + b.toNat < 2 ^ 32 →
    ∃ (wa wb : List Word) (t u : State),
      exec (.fill a) s = .next t ∧ t.responses = s.responses ++ [⟨.ok, wa⟩] ∧
      exec (.fill b) t = .next u ∧ u.responses = t.responses ++ [⟨.ok, wb⟩] ∧
      exec (.fill (a + b)) s = .next { u with responses := s.responses ++ [⟨.ok, wa ++ wb⟩] }

/-- R156: an illegal opcode is a packet of one byte, is answered ERR_ILLEGAL_OPCODE, and changes no register in any phase
(in INITIALIZING it is held, log 9). -/
def Obligations.IllegalOpcodeIsAnsweredOnly : Prop :=
  ∀ (opcode : Byte) (rest : List Byte) (s : State), isIllegalOpcode opcode →
    decode .hostCommand (opcode :: rest) = .instr (.illegal opcode) rest ∧
    (s.phase ≠ .initializing →
      exec (.illegal opcode) s = .next { s with responses := s.responses ++ [⟨.errIllegalOpcode, []⟩] }) ∧
    ∃ t, exec (.illegal opcode) s = .next t ∧ t.lfsr = s.lfsr ∧ t.r1 = s.r1 ∧ t.r2 = s.r2 ∧ t.phase = s.phase ∧
      t.rc = s.rc ∧ t.resets = s.resets ∧ t.stopped = s.stopped

/-- R52: a command offered in INITIALIZING is held. It is neither executed nor answered, and its packet stays offered, first
of all (the host's list is the model's, log 3, log 9). -/
def Obligations.CommandIsHeldDuringInitialization : Prop :=
  ∀ (i : Instr) (s : State), i.space = .hostCommand → s.phase = .initializing →
    exec i s = .next { s with host := offer (encode i) ++ s.host }

/-- The model's own stop (log 10), where the spec applies no operation: a sequencer operation in a state that does not
select it is a fault (R129). -/
def Obligations.SequencerOperationsStopElsewhere : Prop :=
  (∀ (r : BitVec 5) (s : State), ¬(s.phase = .initializing ∧ s.rc = r.setWidth 6) →
    exec (.initRound r) s = .fault .sequencerNotSelected) ∧
  (∀ s : State, ¬(s.phase = .initializing ∧ s.rc = 32#6) → exec .finish s = .fault .sequencerNotSelected)

/-! ## Responses and errors -/

/-- R150: which command gives which status, in which state, and the codes of the statuses. -/
def Obligations.StatusesHaveTheirCausesAndCodes : Prop :=
  (∀ (i : Instr) (s t : State) (r : Response), exec i s = .next t → t.responses = s.responses ++ [r] →
    (r.status = .ok ↔ s.phase ≠ .unseeded ∧ (i = .finish ∨ i = .next ∨ ∃ n, i = .fill n)) ∧
    (r.status = .errKeySize ↔ s.phase = .unseeded ∧
      ∃ key iv, i = .seed key iv ∧ key.length ≠ 16 ∧ key.length ≠ 32) ∧
    (r.status = .errIvSize ↔ s.phase = .unseeded ∧
      ∃ key iv, i = .seed key iv ∧
        ((key.length = 16 ∧ iv.length ≠ 16) ∨ (key.length = 32 ∧ iv.length ≠ 23))) ∧
    (r.status = .errNotReady ↔ s.phase = .unseeded ∧ (i = .next ∨ ∃ n, i = .fill n)) ∧
    (r.status = .errAlreadySeeded ↔ s.phase = .ready ∧ ∃ key iv, i = .seed key iv) ∧
    (r.status = .errIllegalOpcode ↔ ∃ opcode, i = .illegal opcode)) ∧
  (∀ st : Status, st.code.toNat ≤ 5) ∧
  Status.ok.code = 0x00#8 ∧ Status.errKeySize.code = 0x01#8 ∧ Status.errIvSize.code = 0x02#8 ∧
  Status.errNotReady.code = 0x03#8 ∧ Status.errAlreadySeeded.code = 0x04#8 ∧ Status.errIllegalOpcode.code = 0x05#8

/-- R153: a command that ends with an error writes no register; its response is the status and no word. -/
def Obligations.FailedCommandChangesNothing : Prop :=
  ∀ (i : Instr) (s t : State) (r : Response), exec i s = .next t → t.responses = s.responses ++ [r] →
    r.status ≠ .ok → r.words = [] ∧ t = { s with responses := s.responses ++ [r] }

/-- R58: how many responses each operation delivers, and how many words each response has. A command is executed in UNSEEDED
and READY only (R52). -/
def Obligations.EachPacketHasOneResponse : Prop :=
  ∀ (i : Instr) (s t : State), (i.space = .hostCommand → s.phase ≠ .initializing) → exec i s = .next t →
    match i with
    | .seed _ _ =>
      (t.phase = .initializing ∧ t.responses = s.responses) ∨
        ∃ st, st ≠ Status.ok ∧ t.responses = s.responses ++ [⟨st, []⟩]
    | .next =>
      ∃ r : Response, t.responses = s.responses ++ [r] ∧ r.words.length = if r.status = .ok then 1 else 0
    | .fill n =>
      ∃ r : Response, t.responses = s.responses ++ [r] ∧ r.words.length = if r.status = .ok then n.toNat else 0
    | .illegal _ => ∃ st, st ≠ Status.ok ∧ t.responses = s.responses ++ [⟨st, []⟩]
    | .initRound _ => t.responses = s.responses
    | .finish => t.responses = s.responses ++ [⟨.ok, []⟩]

/-! ## Reset and waiting -/

/-- R170: a reset ends whatever the block is doing, also an initialization or a packet partly received: UNSEEDED, rc 0, no
response, and the next byte begins a new packet. lfsr, r1 and r2 are unspecified, so nothing is said of them. -/
def Obligations.ResetAbandonsEverything : Prop :=
  (∀ (s : State) (e : HostEvent) (after : List HostEvent), e.isReset = true →
    ∃ t, step (s.withHost (e :: after)) = .next t ∧
      t.phase = .unseeded ∧ t.rc = 0#6 ∧ t.responses = s.responses ∧ t.stopped = s.stopped ∧ t.host = after) ∧
  (∀ (s : State) (bytes : List Byte) (why : DecodeError) (e : HostEvent) (after : List HostEvent),
    s.phase ≠ .initializing → decode .hostCommand bytes = .reject why → e.isReset = true →
    ∃ t, step (s.withHost (offer bytes ++ e :: after)) = .next t ∧
      t.phase = .unseeded ∧ t.rc = 0#6 ∧ t.responses = s.responses ∧ t.stopped = s.stopped ∧ t.host = after)

/-- R57, R168: with an incomplete packet, or none, the block waits: nothing changes, and the bytes stay offered. -/
def Obligations.IncompletePacketWaits : Prop :=
  ∀ (s : State) (bytes : List Byte) (why : DecodeError), s.phase ≠ .initializing →
    decode .hostCommand bytes = .reject why → step (s.withHost (offer bytes)) = .next (s.withHost (offer bytes))

/-- R52: bytes offered during INITIALIZING are neither taken nor answered, and the sequencer runs as if there were none. -/
def Obligations.BytesAreHeldDuringInitialization : Prop :=
  ∀ (s : State) (bytes : List Byte), s.phase = .initializing → s.rc.toNat ≤ 32 →
    ∃ t, step (s.withHost []) = .next t ∧ t.host = [] ∧
      step (s.withHost (offer bytes)) = .next (t.withHost (offer bytes))

/-! ## The machine as a whole -/

/-- The invariant holds after reset. The clause on the cells says nothing there, the phase being UNSEEDED. -/
def Obligations.InvariantHoldsAtReset : Prop := State.reset.Inv

/-- R13, R19, R140: every step from a state with the invariant leads to a state with the invariant. -/
def Obligations.InvariantIsKept : Prop :=
  ∀ s t : State, s.Inv → step s = .next t → t.Inv

/-- R129, D24: a step is never refused, and it faults in exactly the states for which the spec defines no step. -/
def Obligations.StepStopsOnlyWhereNoStepIsDefined : Prop :=
  ∀ s : State,
    (∀ r, step s ≠ .refused r) ∧
    (∀ f, step s = .fault f ↔
      f = .noSequencerOperation ∧ s.phase = .initializing ∧ 32 < s.rc.toNat ∧ resetFirst s.host = false)

/-- A state with the invariant always makes a step. In INITIALIZING the sequencer is enabled (R131, R133), and in UNSEEDED
and READY a whole packet is executed (R134); that a step exists when no complete packet is offered is the model's reading
of R57 and R168 (log 4). -/
def Obligations.InvariantStatesStep : Prop :=
  ∀ s : State, s.Inv → ∃ t, step s = .next t

/-- R134: every step keeps the phase, or makes one of the table's transitions; READY is left by reset alone. -/
def Obligations.PhaseTransitions : Prop :=
  ∀ s t : State, step s = .next t →
    (t.resets = s.resets + 1 ∧ t.phase = .unseeded ∧ t.rc = 0#6 ∧ t.responses = s.responses) ∨
    (t.resets = s.resets ∧
      ((s.phase = .unseeded ∧ t.phase = .unseeded ∧ t.rc = s.rc ∧ t.lfsr = s.lfsr ∧ t.r1 = s.r1 ∧ t.r2 = s.r2) ∨
       (s.phase = .unseeded ∧ t.phase = .initializing ∧ t.rc = 0#6 ∧ t.r1 = 0#32 ∧ t.r2 = 0#32) ∨
       (s.phase = .initializing ∧ s.rc.toNat ≤ 31 ∧ t.phase = .initializing ∧ t.rc.toNat = s.rc.toNat + 1) ∨
       (s.phase = .initializing ∧ s.rc.toNat = 32 ∧ t.phase = .ready ∧ t.rc = 0#6) ∨
       (s.phase = .ready ∧ t.phase = .ready ∧ t.rc = s.rc)))

/-- R133: from INITIALIZING, 33 - rc sequencer steps lead to READY and deliver the one response, unless a reset comes (the
host's list is the model's, log 3). -/
def Obligations.InitializationEnds : Prop :=
  ∀ s : State, s.phase = .initializing → s.rc.toNat ≤ 32 → (∀ e ∈ s.host, e.isReset = false) →
    (∀ k, k < 33 - s.rc.toNat → ∃ t, run k s = .next t ∧
      t.phase = .initializing ∧ t.rc.toNat = s.rc.toNat + k ∧ t.responses = s.responses) ∧
    ∃ t, run (33 - s.rc.toNat) s = .next t ∧
      t.phase = .ready ∧ t.rc = 0#6 ∧ t.responses = s.responses ++ [⟨.ok, []⟩]

/-- R128: the step that takes a valid SEED and the 33 sequencer steps after it make the big step from UNSEEDED to READY;
bytes offered meanwhile stay offered (the host's list is the model's, log 3). -/
def Obligations.SmallStepsMakeTheBigStep : Prop :=
  ∀ (s : State) (key iv bytes : List Byte), s.phase = .unseeded → SeedLengthsValid key iv →
    run 34 (s.withHost (offer (encode (.seed key iv)) ++ offer bytes)) =
      .next ((s.withHost (offer bytes)).seedBig key iv)

/-- R20, R171: whatever lfsr, r1 and r2 hold in UNSEEDED, the host never sees a difference: two runs whose states differ
only there go on in step, with the same responses, and agree on all registers from the accepted SEED on. -/
def Obligations.UnspecifiedRegistersAreNeverSeen : Prop :=
  ∀ (n : Nat) (s t s' : State), SameToHost s t → run n s = .next s' →
    ∃ t', run n t = .next t' ∧ SameToHost s' t'

/-- R172, R137: from any state at all, a reset, a valid SEED and a FILL give the words that depend on key and IV alone:
the stream begins again at its first word (the host's list is the model's, log 3). -/
def Obligations.RestartBeginsTheSameStream : Prop :=
  ∀ (s : State) (key iv : List Byte) (n : BitVec 32), SeedLengthsValid key iv →
    s.host = .rst :: (offer (encode (.seed key iv)) ++ offer (encode (.fill n))) →
    ∃ t, run 36 s = .next t ∧ t.phase = .ready ∧ t.host = [] ∧
      t.responses = s.responses ++ [⟨.ok, []⟩, ⟨.ok, (State.reset.seedBig key iv).keyWords n.toNat⟩]

/-- R142: the two known-vector scenarios. -/
def Obligations.KnownVectors : Prop :=
  (State.reset.seedBig (List.replicate 16 0x00) (List.replicate 16 0x00)).keyWords 2 = [0x27BEDE74, 0x018082DA] ∧
  (State.reset.seedBig (List.replicate 16 0xFF) (List.replicate 16 0xFF)).keyWords 2 = [0x0657CFA0, 0x7096398B]

/-- R64: the expansions and the refusals of the script's pseudo-commands. -/
def Obligations.ScriptPseudoCommandsExpand : Prop :=
  ∀ (key iv : List Byte) (n : Nat),
    (ScriptLine.seed128 key iv).assemble =
      (if key.length = 16 ∧ iv.length = 16 then (ScriptLine.seed key iv).assemble else none) ∧
    (ScriptLine.seed256 key iv).assemble =
      (if key.length = 32 ∧ iv.length = 23 then (ScriptLine.seed key iv).assemble else none) ∧
    (ScriptLine.nextTimes n).assemble = assembleScript (List.replicate n .next) ∧
    (ScriptLine.restart key iv).assemble = assembleScript [.reset, .seed key iv]

/-! ## A reset in the middle of a command -/

/-- R170: a reset in the middle of a command abandons it. It gets no response, not even an error status; a response partly
delivered stops, after its status and the first words, and the other words are lost: only the items delivered are on
record. The step is otherwise the reset. How the host says when (log 3) and the record (log 17) are the model's. -/
def Obligations.ResetStopsAResponse : Prop :=
  ∀ (s : State) (i : Instr) (k : Nat) (after : List HostEvent), s.phase ≠ .initializing → i.space = .hostCommand →
    WellFormed i →
    ∃ t u, step (s.withHost (offer (encode i) ++ .rstDuring k :: after)) = .next t ∧
      exec i (s.withHost after) = .next u ∧
      t.phase = .unseeded ∧ t.rc = 0#6 ∧ t.host = after ∧ t.responses = s.responses ∧ t.resets = s.resets + 1 ∧
      (u.responses = s.responses → t.stopped = s.stopped) ∧
      (∀ r : Response, u.responses = s.responses ++ [r] →
        t.stopped =
          if k = 0 ∨ r.words = [] then s.stopped
          else s.stopped ++
            [⟨s.responses.length, .status r.status.code :: (r.words.dropLast.take (k - 1)).map .word⟩])
end

