-- ==== Sys2Proof/Laws/State.lean ====
section
/-! SUPPORT. What each update of the state leaves in each field. -/

namespace Sys2Proof.Machine

/-! ## `State.respond` -/

@[simp] theorem State.respond_lfsr (s : State) (st : Status) (ws : List Word) :
    (s.respond st ws).lfsr = s.lfsr := rfl

@[simp] theorem State.respond_r1 (s : State) (st : Status) (ws : List Word) :
    (s.respond st ws).r1 = s.r1 := rfl

@[simp] theorem State.respond_r2 (s : State) (st : Status) (ws : List Word) :
    (s.respond st ws).r2 = s.r2 := rfl

@[simp] theorem State.respond_phase (s : State) (st : Status) (ws : List Word) :
    (s.respond st ws).phase = s.phase := rfl

@[simp] theorem State.respond_rc (s : State) (st : Status) (ws : List Word) :
    (s.respond st ws).rc = s.rc := rfl

@[simp] theorem State.respond_host (s : State) (st : Status) (ws : List Word) :
    (s.respond st ws).host = s.host := rfl

@[simp] theorem State.respond_responses (s : State) (st : Status) (ws : List Word) :
    (s.respond st ws).responses = s.responses ++ [⟨st, ws⟩] := rfl

@[simp] theorem State.respond_stopped (s : State) (st : Status) (ws : List Word) :
    (s.respond st ws).stopped = s.stopped := rfl

@[simp] theorem State.respond_resets (s : State) (st : Status) (ws : List Word) :
    (s.respond st ws).resets = s.resets := rfl

/-! ## `State.round` -/

@[simp] theorem State.round_lfsr (s : State) (m : Mode) :
    (s.round m).lfsr = advance s.lfsr (s.injection m) := rfl

@[simp] theorem State.round_r1 (s : State) (m : Mode) :
    (s.round m).r1 = s.mixed.r1 := rfl

@[simp] theorem State.round_r2 (s : State) (m : Mode) :
    (s.round m).r2 = s.mixed.r2 := rfl

@[simp] theorem State.round_phase (s : State) (m : Mode) :
    (s.round m).phase = s.phase := rfl

@[simp] theorem State.round_rc (s : State) (m : Mode) :
    (s.round m).rc = s.rc := rfl

@[simp] theorem State.round_host (s : State) (m : Mode) :
    (s.round m).host = s.host := rfl

@[simp] theorem State.round_responses (s : State) (m : Mode) :
    (s.round m).responses = s.responses := rfl

@[simp] theorem State.round_stopped (s : State) (m : Mode) :
    (s.round m).stopped = s.stopped := rfl

@[simp] theorem State.round_resets (s : State) (m : Mode) :
    (s.round m).resets = s.resets := rfl

/-! ## `State.load` -/

@[simp] theorem State.load_lfsr (s : State) (sched : Lfsr) :
    (s.load sched).lfsr = sched := rfl

@[simp] theorem State.load_r1 (s : State) (sched : Lfsr) :
    (s.load sched).r1 = 0#32 := rfl

@[simp] theorem State.load_r2 (s : State) (sched : Lfsr) :
    (s.load sched).r2 = 0#32 := rfl

@[simp] theorem State.load_phase (s : State) (sched : Lfsr) :
    (s.load sched).phase = .initializing := rfl

@[simp] theorem State.load_rc (s : State) (sched : Lfsr) :
    (s.load sched).rc = 0#6 := rfl

@[simp] theorem State.load_host (s : State) (sched : Lfsr) :
    (s.load sched).host = s.host := rfl

@[simp] theorem State.load_responses (s : State) (sched : Lfsr) :
    (s.load sched).responses = s.responses := rfl

@[simp] theorem State.load_stopped (s : State) (sched : Lfsr) :
    (s.load sched).stopped = s.stopped := rfl

@[simp] theorem State.load_resets (s : State) (sched : Lfsr) :
    (s.load sched).resets = s.resets := rfl

/-! ## `State.withHost` -/

@[simp] theorem State.withHost_lfsr (s : State) (h : List HostEvent) :
    (s.withHost h).lfsr = s.lfsr := rfl

@[simp] theorem State.withHost_r1 (s : State) (h : List HostEvent) :
    (s.withHost h).r1 = s.r1 := rfl

@[simp] theorem State.withHost_r2 (s : State) (h : List HostEvent) :
    (s.withHost h).r2 = s.r2 := rfl

@[simp] theorem State.withHost_phase (s : State) (h : List HostEvent) :
    (s.withHost h).phase = s.phase := rfl

@[simp] theorem State.withHost_rc (s : State) (h : List HostEvent) :
    (s.withHost h).rc = s.rc := rfl

@[simp] theorem State.withHost_host (s : State) (h : List HostEvent) :
    (s.withHost h).host = h := rfl

@[simp] theorem State.withHost_responses (s : State) (h : List HostEvent) :
    (s.withHost h).responses = s.responses := rfl

@[simp] theorem State.withHost_stopped (s : State) (h : List HostEvent) :
    (s.withHost h).stopped = s.stopped := rfl

@[simp] theorem State.withHost_resets (s : State) (h : List HostEvent) :
    (s.withHost h).resets = s.resets := rfl

/-! ## `State.resetBlock` -/

@[simp] theorem State.resetBlock_lfsr (s : State) (h : List HostEvent) :
    (s.resetBlock h).lfsr = Vector.ofFn fun i => Config.resetCell s.resets i s.lfsr[i] := rfl

@[simp] theorem State.resetBlock_r1 (s : State) (h : List HostEvent) :
    (s.resetBlock h).r1 = Config.resetR1 s.resets s.r1 := rfl

@[simp] theorem State.resetBlock_r2 (s : State) (h : List HostEvent) :
    (s.resetBlock h).r2 = Config.resetR2 s.resets s.r2 := rfl

@[simp] theorem State.resetBlock_phase (s : State) (h : List HostEvent) :
    (s.resetBlock h).phase = .unseeded := rfl

@[simp] theorem State.resetBlock_rc (s : State) (h : List HostEvent) :
    (s.resetBlock h).rc = 0#6 := rfl

@[simp] theorem State.resetBlock_host (s : State) (h : List HostEvent) :
    (s.resetBlock h).host = h := rfl

@[simp] theorem State.resetBlock_responses (s : State) (h : List HostEvent) :
    (s.resetBlock h).responses = s.responses := rfl

@[simp] theorem State.resetBlock_stopped (s : State) (h : List HostEvent) :
    (s.resetBlock h).stopped = s.stopped := rfl

@[simp] theorem State.resetBlock_resets (s : State) (h : List HostEvent) :
    (s.resetBlock h).resets = s.resets + 1 := rfl

/-! ## `State.cutShort` -/

@[simp] theorem State.cutShort_lfsr (s : State) (r : Result) (k : Nat) (h : List HostEvent) :
    (s.cutShort r k h).lfsr = (s.resetBlock h).lfsr := rfl

@[simp] theorem State.cutShort_r1 (s : State) (r : Result) (k : Nat) (h : List HostEvent) :
    (s.cutShort r k h).r1 = (s.resetBlock h).r1 := rfl

@[simp] theorem State.cutShort_r2 (s : State) (r : Result) (k : Nat) (h : List HostEvent) :
    (s.cutShort r k h).r2 = (s.resetBlock h).r2 := rfl

@[simp] theorem State.cutShort_phase (s : State) (r : Result) (k : Nat) (h : List HostEvent) :
    (s.cutShort r k h).phase = .unseeded := rfl

@[simp] theorem State.cutShort_rc (s : State) (r : Result) (k : Nat) (h : List HostEvent) :
    (s.cutShort r k h).rc = 0#6 := rfl

@[simp] theorem State.cutShort_host (s : State) (r : Result) (k : Nat) (h : List HostEvent) :
    (s.cutShort r k h).host = h := rfl

@[simp] theorem State.cutShort_responses (s : State) (r : Result) (k : Nat) (h : List HostEvent) :
    (s.cutShort r k h).responses = s.responses := rfl

@[simp] theorem State.cutShort_stopped (s : State) (r : Result) (k : Nat) (h : List HostEvent) :
    (s.cutShort r k h).stopped = s.stopped ++ stoppedRecord s.responses.length ((s.itemsGiven r).dropLast.take k) := rfl

@[simp] theorem State.cutShort_resets (s : State) (r : Result) (k : Nat) (h : List HostEvent) :
    (s.cutShort r k h).resets = s.resets + 1 := rfl

/-! ## `State.placeSequencer` -/

@[simp] theorem State.placeSequencer_lfsr (s : State) (w : Byte) :
    (s.placeSequencer w).lfsr = s.lfsr := rfl

@[simp] theorem State.placeSequencer_r1 (s : State) (w : Byte) :
    (s.placeSequencer w).r1 = s.r1 := rfl

@[simp] theorem State.placeSequencer_r2 (s : State) (w : Byte) :
    (s.placeSequencer w).r2 = s.r2 := rfl

@[simp] theorem State.placeSequencer_phase (s : State) (w : Byte) :
    (s.placeSequencer w).phase = .initializing := rfl

@[simp] theorem State.placeSequencer_rc (s : State) (w : Byte) :
    (s.placeSequencer w).rc = w.extractLsb' 0 6 := rfl

@[simp] theorem State.placeSequencer_host (s : State) (w : Byte) :
    (s.placeSequencer w).host = dropResets s.host := rfl

@[simp] theorem State.placeSequencer_responses (s : State) (w : Byte) :
    (s.placeSequencer w).responses = s.responses := rfl

@[simp] theorem State.placeSequencer_stopped (s : State) (w : Byte) :
    (s.placeSequencer w).stopped = s.stopped := rfl

@[simp] theorem State.placeSequencer_resets (s : State) (w : Byte) :
    (s.placeSequencer w).resets = s.resets := rfl

/-! ## `State.countedRound` -/

@[simp] theorem State.countedRound_lfsr (s : State) :
    (s.countedRound).lfsr = advance s.lfsr (injected s.mixed.w) := rfl

@[simp] theorem State.countedRound_r1 (s : State) :
    (s.countedRound).r1 = s.mixed.r1 := rfl

@[simp] theorem State.countedRound_r2 (s : State) :
    (s.countedRound).r2 = s.mixed.r2 := rfl

@[simp] theorem State.countedRound_phase (s : State) :
    (s.countedRound).phase = s.phase := rfl

@[simp] theorem State.countedRound_rc (s : State) :
    (s.countedRound).rc = s.rc + 1#6 := rfl

@[simp] theorem State.countedRound_host (s : State) :
    (s.countedRound).host = s.host := rfl

@[simp] theorem State.countedRound_responses (s : State) :
    (s.countedRound).responses = s.responses := rfl

@[simp] theorem State.countedRound_stopped (s : State) :
    (s.countedRound).stopped = s.stopped := rfl

@[simp] theorem State.countedRound_resets (s : State) :
    (s.countedRound).resets = s.resets := rfl

/-! ## `State.finishingRound` -/

@[simp] theorem State.finishingRound_lfsr (s : State) :
    (s.finishingRound).lfsr = advance s.lfsr 0#31 := rfl

@[simp] theorem State.finishingRound_r1 (s : State) :
    (s.finishingRound).r1 = s.mixed.r1 := rfl

@[simp] theorem State.finishingRound_r2 (s : State) :
    (s.finishingRound).r2 = s.mixed.r2 := rfl

@[simp] theorem State.finishingRound_phase (s : State) :
    (s.finishingRound).phase = .ready := rfl

@[simp] theorem State.finishingRound_rc (s : State) :
    (s.finishingRound).rc = 0#6 := rfl

@[simp] theorem State.finishingRound_host (s : State) :
    (s.finishingRound).host = s.host := rfl

@[simp] theorem State.finishingRound_responses (s : State) :
    (s.finishingRound).responses = s.responses ++ [⟨.ok, []⟩] := rfl

@[simp] theorem State.finishingRound_stopped (s : State) :
    (s.finishingRound).stopped = s.stopped := rfl

@[simp] theorem State.finishingRound_resets (s : State) :
    (s.finishingRound).resets = s.resets := rfl

/-! ## Updates that commute with another future of the host or another log of responses -/

@[simp] theorem State.withHost_withHost (s : State) (h h' : List HostEvent) :
    (s.withHost h).withHost h' = s.withHost h' := rfl

@[simp] theorem State.withHost_self (s : State) : s.withHost s.host = s := rfl

@[simp] theorem State.withHost_wires (s : State) (h : List HostEvent) : (s.withHost h).wires = s.wires := rfl

@[simp] theorem State.withHost_mixed (s : State) (h : List HostEvent) : (s.withHost h).mixed = s.mixed := rfl

@[simp] theorem State.withHost_keyWord (s : State) (h : List HostEvent) : (s.withHost h).keyWord = s.keyWord := rfl

@[simp] theorem State.withHost_sequencerWord (s : State) (h : List HostEvent) :
    (s.withHost h).sequencerWord = s.sequencerWord := rfl

theorem State.round_withHost (s : State) (h : List HostEvent) (m : Mode) :
    (s.withHost h).round m = (s.round m).withHost h := by cases m <;> rfl

theorem State.countedRound_withHost (s : State) (h : List HostEvent) :
    (s.withHost h).countedRound = s.countedRound.withHost h := rfl

theorem State.finishingRound_withHost (s : State) (h : List HostEvent) :
    (s.withHost h).finishingRound = s.finishingRound.withHost h := rfl

theorem State.respond_withHost (s : State) (h : List HostEvent) (st : Status) (ws : List Word) :
    (s.withHost h).respond st ws = (s.respond st ws).withHost h := rfl

end Sys2Proof.Machine
end

