-- ==== Sys2Proof/Laws/Ops.lean ====
section
/-! SUPPORT. One lemma per shared operation that says all it can do, for the proofs to cite instead of unfolding it. -/

namespace Sys2Proof.Machine

/-! ## Responses, errors and held commands -/

theorem State.raise_eq (s : State) (st : Status) : s.raise st = .next (s.respond st []) := rfl

theorem State.takeCommand_of_initializing {s : State} (h : s.phase = .initializing) (i : Instr) (k : State → Result) :
    s.takeCommand i k = .next (s.withHost (offer (encode i) ++ s.host)) := if_pos h

theorem State.takeCommand_of_idle {s : State} (h : s.phase ≠ .initializing) (i : Instr) (k : State → Result) :
    s.takeCommand i k = k s := if_neg h

/-- A command is held while INITIALIZING, and its meaning runs otherwise (R52). -/
theorem State.takeCommand_next {s t : State} {i : Instr} {k : State → Result} (h : s.takeCommand i k = .next t) :
    (s.phase = .initializing ∧ t = s.withHost (offer (encode i) ++ s.host)) ∨
    (s.phase ≠ .initializing ∧ k s = .next t) := by
  unfold State.takeCommand at h
  split at h
  · cases h
    exact .inl ⟨‹_›, rfl⟩
  · exact .inr ⟨‹_›, h⟩

/-! ## What each instruction can answer -/

/-- All a SEED can answer as a next state (R125, R126). -/
theorem execSeed_cases {key iv : List Byte} {s t : State} (h : execSeed key iv s = .next t) :
    (s.phase = .initializing ∧ t = s.withHost (offer (encode (.seed key iv)) ++ s.host)) ∨
    (s.phase = .ready ∧ t = s.respond .errAlreadySeeded []) ∨
    (s.phase = .unseeded ∧ keyLengthOk key.length = false ∧ t = s.respond .errKeySize []) ∨
    (s.phase = .unseeded ∧ keyLengthOk key.length = true ∧ ivLengthOk key.length iv.length = false ∧
      t = s.respond .errIvSize []) ∨
    (s.phase = .unseeded ∧ keyLengthOk key.length = true ∧ ivLengthOk key.length iv.length = true ∧
      t = s.load (schedule key iv)) := by
  obtain hh | ⟨hp, h⟩ := State.takeCommand_next h
  · exact .inl hh
  refine .inr ?_
  cases hph : s.phase <;> cases hk : keyLengthOk key.length <;> cases hi : ivLengthOk key.length iv.length <;>
    simp_all [State.raise]

/-- All a NEXT can answer as a next state (R135). -/
theorem execNext_cases {s t : State} (h : execNext s = .next t) :
    (s.phase = .initializing ∧ t = s.withHost (offer (encode .next) ++ s.host)) ∨
    (s.phase = .unseeded ∧ t = s.respond .errNotReady []) ∨
    (s.phase = .ready ∧ t = (s.round .work).respond .ok [s.keyWord]) := by
  obtain hh | ⟨hp, h⟩ := State.takeCommand_next h
  · exact .inl hh
  refine .inr ?_
  cases hph : s.phase <;> simp_all [State.raise]

/-- All a FILL can answer as a next state (R138). -/
theorem execFill_cases {n : BitVec 32} {s t : State} (h : execFill n s = .next t) :
    (s.phase = .initializing ∧ t = s.withHost (offer (encode (.fill n)) ++ s.host)) ∨
    (s.phase = .unseeded ∧ t = s.respond .errNotReady []) ∨
    (s.phase = .ready ∧ t = (s.workRounds n.toNat).respond .ok (s.keyWords n.toNat)) := by
  obtain hh | ⟨hp, h⟩ := State.takeCommand_next h
  · exact .inl hh
  refine .inr ?_
  cases hph : s.phase <;> simp_all [State.raise]

/-- All an illegal opcode can answer as a next state (R156). -/
theorem execIllegal_cases {opcode : Byte} {s t : State} (h : execIllegal opcode s = .next t) :
    (s.phase = .initializing ∧ t = s.withHost (offer (encode (.illegal opcode)) ++ s.host)) ∨
    (s.phase ≠ .initializing ∧ t = s.respond .errIllegalOpcode []) := by
  obtain hh | ⟨hp, h⟩ := State.takeCommand_next h
  · exact .inl hh
  · cases h
    exact .inr ⟨hp, rfl⟩

/-- All an INIT_ROUND can answer as a next state (R130). -/
theorem execInitRound_cases {r : BitVec 5} {s t : State} (h : execInitRound r s = .next t) :
    s.phase = .initializing ∧ s.rc = r.setWidth 6 ∧ t = s.countedRound := by
  unfold execInitRound at h
  split at h
  · cases h
    exact ⟨And.left ‹_›, And.right ‹_›, rfl⟩
  · cases h

/-- All a FINISH can answer as a next state (R132). -/
theorem execFinish_cases {s t : State} (h : execFinish s = .next t) :
    s.phase = .initializing ∧ s.rc = 32#6 ∧ t = s.finishingRound := by
  unfold execFinish at h
  split at h
  · cases h
    exact ⟨And.left ‹_›, And.right ‹_›, rfl⟩
  · cases h

/-- Every command answers a next state in every state: errors are responses (R150, R153), and a command is held while
INITIALIZING (R52). -/
theorem exec_command_completes {i : Instr} (hi : i.space = .hostCommand) (s : State) : ∃ t, exec i s = .next t := by
  by_cases hp : s.phase = .initializing
  · cases i with
    | seed key iv => exact ⟨_, by simp only [exec, execSeed, State.takeCommand_of_initializing hp]; rfl⟩
    | next => exact ⟨_, by simp only [exec, execNext, State.takeCommand_of_initializing hp]; rfl⟩
    | fill n => exact ⟨_, by simp only [exec, execFill, State.takeCommand_of_initializing hp]; rfl⟩
    | illegal opcode => exact ⟨_, by simp only [exec, execIllegal, State.takeCommand_of_initializing hp]; rfl⟩
    | initRound r => cases hi
    | finish => cases hi
  · cases i with
    | seed key iv =>
      simp only [exec, execSeed, State.takeCommand_of_idle hp, State.raise]
      split
      · exact ⟨_, rfl⟩
      · split
        · exact ⟨_, rfl⟩
        · split <;> exact ⟨_, rfl⟩
    | next =>
      simp only [exec, execNext, State.takeCommand_of_idle hp, State.raise]
      split <;> exact ⟨_, rfl⟩
    | fill n =>
      simp only [exec, execFill, State.takeCommand_of_idle hp, State.raise]
      split <;> exact ⟨_, rfl⟩
    | illegal opcode =>
      simp only [exec, execIllegal, State.takeCommand_of_idle hp, State.raise]
      exact ⟨_, rfl⟩
    | initRound r => cases hi
    | finish => cases hi

/-! ## Rounds in a row -/

@[simp] theorem State.workRounds_zero (s : State) : s.workRounds 0 = s := rfl

theorem State.workRounds_succ (s : State) (n : Nat) : s.workRounds (n + 1) = (s.round .work).workRounds n := rfl

@[simp] theorem State.keyWords_zero (s : State) : s.keyWords 0 = [] := rfl

theorem State.keyWords_succ (s : State) (n : Nat) :
    s.keyWords (n + 1) = s.keyWord :: (s.round .work).keyWords n := rfl

/-- Rounds write lfsr, r1 and r2 only. -/
theorem State.workRounds_frame (s : State) (n : Nat) :
    (s.workRounds n).phase = s.phase ∧ (s.workRounds n).rc = s.rc ∧ (s.workRounds n).host = s.host ∧
      (s.workRounds n).responses = s.responses ∧ (s.workRounds n).resets = s.resets ∧
      (s.workRounds n).stopped = s.stopped := by
  induction n generalizing s with
  | zero => simp
  | succ n ih =>
    rw [State.workRounds_succ]
    simpa using ih (s.round .work)

@[simp] theorem State.keyWords_length (s : State) (n : Nat) : (s.keyWords n).length = n := by
  induction n generalizing s with
  | zero => rfl
  | succ n ih => simp [State.keyWords_succ, ih]

/-- INIT_ROUNDs write lfsr, r1, r2 and rc only. -/
theorem State.countedRounds_frame (s : State) (n : Nat) :
    (s.countedRounds n).phase = s.phase ∧ (s.countedRounds n).host = s.host ∧
      (s.countedRounds n).responses = s.responses ∧ (s.countedRounds n).resets = s.resets ∧
      (s.countedRounds n).stopped = s.stopped := by
  induction n generalizing s with
  | zero => exact ⟨rfl, rfl, rfl, rfl, rfl⟩
  | succ n ih => exact ih s.countedRound

/-- The big step with any number of INIT_ROUNDs, field by field (R128): `seedBig` is it with 32. -/
theorem State.load_rounds_finish (s : State) (sched : Lfsr) (n : Nat) :
    let t := ((s.load sched).countedRounds n).finishingRound
    t.phase = .ready ∧ t.rc = 0#6 ∧ t.host = s.host ∧ t.responses = s.responses ++ [⟨.ok, []⟩] ∧
      t.resets = s.resets ∧ t.stopped = s.stopped := by
  obtain ⟨_, hh, hr, hs, ht⟩ := State.countedRounds_frame (s.load sched) n
  refine ⟨State.finishingRound_phase _, State.finishingRound_rc _, ?_, ?_, ?_, ?_⟩
  · rw [State.finishingRound_host, hh, State.load_host]
  · rw [State.finishingRound_responses, hr, State.load_responses]
  · rw [State.finishingRound_resets, hs, State.load_resets]
  · rw [State.finishingRound_stopped, ht, State.load_stopped]

theorem State.seedBig_frame (s : State) (key iv : List Byte) :
    let t := s.seedBig key iv
    t.phase = .ready ∧ t.rc = 0#6 ∧ t.host = s.host ∧ t.responses = s.responses ++ [⟨.ok, []⟩] ∧
      t.resets = s.resets ∧ t.stopped = s.stopped := by
  simp only [State.seedBig]
  exact State.load_rounds_finish s (schedule key iv) Config.initRounds

/-! ## The advance -/

theorem feedback_ne_zero (l : Lfsr) (inj : Cell) : feedback l inj ≠ 0#31 := by
  unfold feedback
  split
  · decide
  · assumption

@[simp] theorem shift_last (l : Lfsr) (v : Cell) : (shift l v)[15] = v := rfl

theorem shift_below (l : Lfsr) (v : Cell) (i : Fin 15) : (shift l v)[i.val] = l[i.val + 1] := by
  fin_cases i <;> rfl

/-- A shift of cells without a zero by a value that is not zero has no zero cell (R140). -/
theorem shift_nonzero {l : Lfsr} {v : Cell} (hl : CellsNonzero l) (hv : v ≠ 0#31) : CellsNonzero (shift l v) := by
  intro i
  by_cases hi : i.val < 15
  · have h := shift_below l v ⟨i.val, hi⟩
    have hn := hl ⟨i.val + 1, by omega⟩
    simp only [Fin.getElem_fin] at hn ⊢
    rw [h]
    exact hn
  · obtain rfl : i = 15 := by omega
    exact hv

/-! ## The host's list -/

@[simp] theorem leadingBytes_nil : leadingBytes [] = [] := rfl

@[simp] theorem leadingBytes_rst (h : List HostEvent) : leadingBytes (.rst :: h) = [] := rfl

@[simp] theorem leadingBytes_rstDuring (k : Nat) (h : List HostEvent) : leadingBytes (.rstDuring k :: h) = [] := rfl

@[simp] theorem leadingBytes_wait (h : List HostEvent) : leadingBytes (.wait :: h) = [] := rfl

@[simp] theorem afterBytes_nil : afterBytes [] = [] := rfl

@[simp] theorem afterBytes_rst (h : List HostEvent) : afterBytes (.rst :: h) = .rst :: h := rfl

@[simp] theorem afterBytes_rstDuring (k : Nat) (h : List HostEvent) :
    afterBytes (.rstDuring k :: h) = .rstDuring k :: h := rfl

@[simp] theorem afterBytes_wait (h : List HostEvent) : afterBytes (.wait :: h) = .wait :: h := rfl

@[simp] theorem leadingBytes_offer (bs : List Byte) (h : List HostEvent) :
    leadingBytes (offer bs ++ h) = bs ++ leadingBytes h := by
  induction bs with
  | nil => rfl
  | cons b bs ih => exact congrArg (b :: ·) ih

@[simp] theorem afterBytes_offer (bs : List Byte) (h : List HostEvent) :
    afterBytes (offer bs ++ h) = afterBytes h := by
  induction bs with
  | nil => rfl
  | cons b bs ih => exact ih

/-- The bytes offered first and what comes after them are the whole list. -/
theorem offer_leadingBytes (h : List HostEvent) : offer (leadingBytes h) ++ afterBytes h = h := by
  induction h with
  | nil => rfl
  | cons e t ih =>
    cases e with
    | byte b => exact congrArg (HostEvent.byte b :: ·) ih
    | rst => rfl
    | rstDuring k => rfl
    | wait => rfl

/-! ## A reset in the middle of a command -/

@[simp] theorem cutFirst_rstDuring (k : Nat) (h : List HostEvent) : cutFirst (.rstDuring k :: h) = some (k, h) := rfl

/-- A reset in the middle of the step before stands first, or there is none. -/
theorem cutFirst_eq_some {h t : List HostEvent} {k : Nat} (hc : cutFirst h = some (k, t)) : h = .rstDuring k :: t := by
  match h with
  | .rstDuring _ :: _ =>
    cases hc
    rfl

/-- Bytes that stand first are no reset. -/
theorem cutFirst_offer {bs : List Byte} (hb : bs ≠ []) (h : List HostEvent) : cutFirst (offer bs ++ h) = none := by
  match bs with
  | _ :: _ => rfl

/-- What is on record of a response that is stopped: nothing when it has no word, or when nothing was delivered; else its
status and then its words, the last one never (R58, R170). -/
theorem stoppedRecord_items (position k : Nat) (r : Response) :
    stoppedRecord position (r.items.dropLast.take k) =
      if k = 0 ∨ r.words = [] then []
      else [⟨position, .status r.status.code :: (r.words.dropLast.take (k - 1)).map .word⟩] := by
  obtain ⟨st, ws⟩ := r
  match k, ws with
  | 0, _ => rfl
  | _ + 1, [] => rfl
  | k + 1, w :: ws =>
    simp [Response.items, stoppedRecord, List.map_dropLast, List.map_take]

/-- The items an operation gave are those of its one response. -/
theorem State.itemsGiven_of_response {s t : State} {r : Response} (h : t.responses = s.responses ++ [r]) :
    s.itemsGiven (.next t) = r.items := by
  simp [State.itemsGiven, h]

/-- An operation that gave no response has no item to lose. -/
theorem State.itemsGiven_of_silent {s t : State} (h : t.responses = s.responses) : s.itemsGiven (.next t) = [] := by
  simp [State.itemsGiven, h]

/-! ## What a step can do -/

/-- All the fetch of a command can give (R52, R57, R170). -/
theorem fetchCommand_cases (h : List HostEvent) :
    (∃ i rest, decode .hostCommand (leadingBytes h) = .instr i rest ∧
      ((cutFirst (offer rest ++ afterBytes h) = none ∧ fetchCommand h = .execute i (offer rest ++ afterBytes h)) ∨
       (∃ k t, offer rest ++ afterBytes h = .rstDuring k :: t ∧ fetchCommand h = .cut i k t))) ∨
    (∃ why, decode .hostCommand (leadingBytes h) = .reject why ∧
      ((∃ e t, e.isReset = true ∧ afterBytes h = e :: t ∧ fetchCommand h = .reset t) ∨
       (∃ t, afterBytes h = .wait :: t ∧ fetchCommand h = .idle (offer (leadingBytes h) ++ t)) ∨
       (afterBytes h = [] ∧ fetchCommand h = .idle h))) := by
  have nobyte : ∀ b t, afterBytes h ≠ .byte b :: t := by
    intro b t
    induction h with
    | nil => exact nofun
    | cons e l ih =>
      cases e with
      | byte b => exact ih
      | rst => exact nofun
      | rstDuring k => exact nofun
      | wait => exact nofun
  unfold fetchCommand
  cases hd : decode .hostCommand (leadingBytes h) with
  | instr i rest =>
    refine .inl ⟨i, rest, rfl, ?_⟩
    cases hc : cutFirst (offer rest ++ afterBytes h) with
    | none => exact .inl ⟨rfl, by simp [hc]⟩
    | some p => exact .inr ⟨p.1, p.2, cutFirst_eq_some hc, by simp [hc]⟩
  | reject why =>
    refine .inr ⟨why, rfl, ?_⟩
    match ha : afterBytes h with
    | [] => exact .inr (.inr ⟨rfl, rfl⟩)
    | .rst :: t => exact .inl ⟨.rst, t, rfl, rfl, rfl⟩
    | .rstDuring k :: t => exact .inl ⟨.rstDuring k, t, rfl, rfl, rfl⟩
    | .wait :: t => exact .inr (.inl ⟨t, rfl, rfl⟩)
    | .byte b :: t => exact absurd ha (nobyte b t)

/-- All the sequencer's fetch can give (R129, R131). -/
theorem fetchSequencer_cases (w : Byte) (h : List HostEvent) :
    (∃ e t, e.isReset = true ∧ h = e :: t ∧ fetchSequencer w h = .reset t) ∨
    (resetFirst h = false ∧
      ((∃ i, decodeSequencer w = .ok i ∧ fetchSequencer w h = .execute i (dropWait h)) ∨
       (∃ why, decodeSequencer w = .error why ∧ fetchSequencer w h = .stuck))) := by
  match h with
  | .rst :: t => exact .inl ⟨.rst, t, rfl, rfl, rfl⟩
  | .rstDuring k :: t => exact .inl ⟨.rstDuring k, t, rfl, rfl, rfl⟩
  | [] | .byte _ :: _ | .wait :: _ =>
    refine .inr ⟨rfl, ?_⟩
    cases hd : decodeSequencer w <;> simp [fetchSequencer, decode, hd]

/-- All the sequencer's decoder can give for a state (R129). -/
theorem decodeSequencer_state {s : State} (h : s.phase = .initializing) :
    (s.rc.toNat < 32 ∧ decodeSequencer s.sequencerWord = .ok (.initRound (s.rc.extractLsb' 0 5)) ∧
      s.rc = (s.rc.extractLsb' 0 5).setWidth 6) ∨
    (s.rc = 32#6 ∧ decodeSequencer s.sequencerWord = .ok .finish) ∨
    (32 < s.rc.toNat ∧ decodeSequencer s.sequencerWord = .error .noSequencerOperation) := by
  have all : ∀ c : BitVec 6,
      (c.toNat < 32 ∧ decodeSequencer (Phase.initializing.code ++ c) = .ok (.initRound (c.extractLsb' 0 5)) ∧
        c = (c.extractLsb' 0 5).setWidth 6) ∨
      (c = 32#6 ∧ decodeSequencer (Phase.initializing.code ++ c) = .ok .finish) ∨
      (32 < c.toNat ∧ decodeSequencer (Phase.initializing.code ++ c) = .error .noSequencerOperation) := by
    decide
  have hw : s.sequencerWord = Phase.initializing.code ++ s.rc := by
    unfold State.sequencerWord
    rw [h]
  rw [hw]
  exact all s.rc

end Sys2Proof.Machine
end

