-- ==== Sys2Proof/Laws/PerInstr.lean ====
section
/-! SUPPORT. A law of every instruction as syntax, one lemma per constructor: the length of its encoding (R53, R57). -/

namespace Sys2Proof.Laws.EncodedLength

/-- The number of bytes of an instruction's encoding: 3 + KLEN + IVLEN for SEED, 5 for FILL, 1 for everything else (R57);
a sequencer operation is one word of 8 bits (R62). -/
def Statement (i : Instr) : Prop :=
  (encode i).length =
    match i with
    | .seed key iv => 3 + key.length + iv.length
    | .next => 1
    | .fill _ => 5
    | .illegal _ => 1
    | .initRound _ => 1
    | .finish => 1

theorem seed (key iv : List Byte) : Statement (.seed key iv) := by
  simp only [Statement, encode, List.length_cons, List.length_append]
  omega

theorem next : Statement .next := rfl

theorem fill (n : BitVec 32) : Statement (.fill n) := rfl

theorem illegal (opcode : Byte) : Statement (.illegal opcode) := rfl

theorem initRound (r : BitVec 5) : Statement (.initRound r) := rfl

theorem finish : Statement .finish := rfl

end Sys2Proof.Laws.EncodedLength
end

