-- ==== Sys2Proof/Laws/Step.lean ====
section
/-! SUPPORT. All that a step can do, said once for each kind of state: the statements about every step cite these. -/

namespace Sys2Proof.Machine

/-- The packet decoder gives commands only. -/
theorem decode_hostCommand_space {bytes rest : List Byte} {i : Instr}
    (h : decode .hostCommand bytes = .instr i rest) : i.space = .hostCommand := by
  rcases bytes with _ | ⟨opcode, body⟩
  · cases h
  · simp only [decode, decodePacket] at h
    split at h
    · unfold decodeSeed at h
      split at h
      · split at h
        · cases h
        · cases h
          rfl
      · cases h
    · split at h
      · cases h
        rfl
      · split at h
        · unfold decodeFill at h
          split at h
          · cases h
            rfl
          · cases h
        · cases h
          rfl

/-- A step of a state that takes commands: one command, one command with a reset in its middle, a reset, or waiting (R52,
R168, R170). -/
theorem step_idle_cases {s : State} (hp : s.phase ≠ .initializing) :
    (∃ i rest, decode .hostCommand (leadingBytes s.host) = .instr i rest ∧ i.space = .hostCommand ∧
      cutFirst (offer rest ++ afterBytes s.host) = none ∧
      step s = exec i (s.withHost (offer rest ++ afterBytes s.host))) ∨
    (∃ i k h, i.space = .hostCommand ∧ step s = .next (s.cutShort (exec i (s.withHost h)) k h)) ∨
    (∃ h, step s = .next (s.resetBlock h)) ∨
    (∃ h, step s = .next (s.withHost h)) := by
  have hf : s.fetch = fetchCommand s.host := if_neg hp
  unfold step
  rw [hf]
  rcases fetchCommand_cases s.host with
    ⟨i, rest, hd, ⟨hc, he⟩ | ⟨k, t, _, he⟩⟩ | ⟨_, _, ⟨_, t, _, _, he⟩ | ⟨t, _, he⟩ | ⟨_, he⟩⟩
  · rw [he]
    exact .inl ⟨i, rest, hd, decode_hostCommand_space hd, hc, rfl⟩
  · rw [he]
    exact .inr (.inl ⟨i, k, t, decode_hostCommand_space hd, rfl⟩)
  · rw [he]
    exact .inr (.inr (.inl ⟨_, rfl⟩))
  · rw [he]
    exact .inr (.inr (.inr ⟨_, rfl⟩))
  · rw [he]
    exact .inr (.inr (.inr ⟨_, rfl⟩))

/-- A step while INITIALIZING: a reset, or what the sequencer selects (R129 to R132, R170). -/
theorem step_initializing_cases {s : State} (hp : s.phase = .initializing) :
    (∃ e h, e.isReset = true ∧ s.host = e :: h ∧ step s = .next (s.resetBlock h)) ∨
    (resetFirst s.host = false ∧
      ((s.rc.toNat < 32 ∧
          step s = .next (s.withHost (dropWait s.host)).countedRound) ∨
       (s.rc = 32#6 ∧
          step s = .next (s.withHost (dropWait s.host)).finishingRound) ∨
       (32 < s.rc.toNat ∧ step s = .fault .noSequencerOperation))) := by
  have hf : s.fetch = fetchSequencer s.sequencerWord s.host := if_pos hp
  unfold step
  rw [hf]
  rcases fetchSequencer_cases s.sequencerWord s.host with ⟨e, t, hr, h1, h2⟩ | ⟨hh, h3⟩
  · rw [h2]
    exact .inl ⟨e, t, hr, h1, rfl⟩
  · refine .inr ⟨hh, ?_⟩
    rcases decodeSequencer_state hp with ⟨hr, hd, hw⟩ | ⟨hr, hd⟩ | ⟨hr, hd⟩
    · obtain ⟨i, hi, he⟩ | ⟨why, hi, he⟩ := h3
      · rw [hd] at hi
        cases hi
        rw [he]
        exact .inl ⟨hr, if_pos ⟨hp, hw⟩⟩
      · rw [hd] at hi
        cases hi
    · obtain ⟨i, hi, he⟩ | ⟨why, hi, he⟩ := h3
      · rw [hd] at hi
        cases hi
        rw [he]
        exact .inr (.inl ⟨hr, if_pos ⟨hp, hr⟩⟩)
      · rw [hd] at hi
        cases hi
    · obtain ⟨i, hi, he⟩ | ⟨why, hi, he⟩ := h3
      · rw [hd] at hi
        cases hi
      · rw [he]
        exact .inr (.inr ⟨hr, rfl⟩)

/-! ## Runs -/

@[simp] theorem run_zero (s : State) : run 0 s = .next s := rfl

theorem run_succ_of_next {s t : State} (h : step s = .next t) (n : Nat) : run (n + 1) s = run n t := by
  rw [run, h]

/-- A run is made of a first part and the rest. -/
theorem run_add {a : Nat} {s t : State} (h : run a s = .next t) (b : Nat) : run (a + b) s = run b t := by
  induction a generalizing s with
  | zero =>
    cases h
    rw [Nat.zero_add]
  | succ a ih =>
    rw [Nat.add_right_comm]
    rw [run] at h ⊢
    cases hs : step s with
    | next u =>
      rw [hs] at h
      exact ih h
    | fault r =>
      rw [hs] at h
      cases h
    | refused r =>
      rw [hs] at h
      cases h

theorem hostRun_next {M : Host.Core} {s t : M.State} (h : M.step s = .next t) (n : Nat) :
    M.run (n + 1) s = M.run n t := by rw [Host.Core.run, h]

theorem hostRun_fault {M : Host.Core} {s : M.State} {r : M.Fault} (h : M.step s = .fault r) (n : Nat) :
    M.run (n + 1) s = .fault r := by rw [Host.Core.run, h]

theorem hostRun_refused {M : Host.Core} {s : M.State} {r : M.Refusal} (h : M.step s = .refused r) (n : Nat) :
    M.run (n + 1) s = .refused r := by rw [Host.Core.run, h]

/-- `run` is the host's run of this machine. -/
theorem run_eq_core_run (n : Nat) (s : State) : run n s = Sys2Proof.core.run n s := by
  induction n generalizing s with
  | zero => rfl
  | succ n ih =>
    rw [run]
    cases h : step s with
    | next t => exact (ih t).trans (hostRun_next (M := Sys2Proof.core) h n).symm
    | fault r => exact (hostRun_fault (M := Sys2Proof.core) h n).symm
    | refused r => exact (hostRun_refused (M := Sys2Proof.core) h n).symm

end Sys2Proof.Machine
end

