-- ==== Sys2Proof/Tests/Slice0.lean ====
section
/-! SUPPORT. The session's own tests. Expected values come from the spec: the examples of its rules, and the tables of
spec/95_test_vectors.md sections 1 to 5. The last part has one witness for every statement that has hypotheses. -/

namespace Sys2Proof.Tests

open Sys2Proof.Machine

/-! ## States of the tests -/

/-- `lfsr[i]` = i + 1, the cells of the example of R101. -/
def numbered : Lfsr := Vector.ofFn fun i => BitVec.ofNat 31 (i.val + 1)

/-- The cells SEED loads for the all-zero 16-byte key and IV (section 4.1, example of R126). -/
def zeroLoad : Lfsr :=
  #v[0x0044D700, 0x0026BC00, 0x00626B00, 0x00135E00, 0x00578900, 0x0035E200, 0x00713500, 0x0009AF00, 0x004D7800,
    0x002F1300, 0x006BC400, 0x001AF100, 0x005E2600, 0x003C4D00, 0x00789A00, 0x0047AC00]

/-- The cells in READY for the all-zero 16-byte key and IV (section 4.1). -/
def zeroReady : Lfsr :=
  #v[0x747CA0C4, 0x6259DD0B, 0x47A94C2B, 0x3A89C82E, 0x32B433FC, 0x231EA13F, 0x31711E42, 0x4CCCE955, 0x3FB6071E,
    0x161D3512, 0x7114B136, 0x5154D452, 0x78C69A74, 0x4F26BA6B, 0x3E1B8D6A, 0x7F08E141]

def idle : State := State.reset

def initializing (rc : BitVec 6) : State := { State.reset with lfsr := zeroLoad, phase := .initializing, rc := rc }

def ready : State :=
  { State.reset with lfsr := zeroReady, r1 := 0x3512BF50#32, r2 := 0xA0920453#32, phase := .ready }

def zeros (n : Nat) : List Byte := List.replicate n 0x00#8

def seedZeros (klen ivlen : Nat) : Instr := .seed (zeros klen) (zeros ivlen)

/-- The next state, or `none` where there is none. -/
def after (r : Result) : Option State :=
  match r with
  | .next t => some t
  | _ => none

/-- r1, r2, and the cells 0 and 15 of a next state. -/
def registers (r : Result) : Option (Word × Word × Cell × Cell) :=
  (after r).map fun t => (t.r1, t.r2, t.lfsr[0], t.lfsr[15])

/-- The phase, the counter and the responses of a next state. -/
def control (r : Result) : Option (Phase × BitVec 6 × List Response) :=
  (after r).map fun t => (t.phase, t.rc, t.responses)

/-! ## WellFormed: one ill-formed term for each check -/

theorem test_wf_refuses_long_key : ¬ WellFormed (seedZeros 256 0) := by decide +kernel
theorem test_wf_refuses_long_iv : ¬ WellFormed (seedZeros 0 256) := by decide +kernel
theorem test_wf_accepts_longest_seed : WellFormed (seedZeros 255 255) := by decide +kernel
theorem test_wf_refuses_seed_opcode : ¬ WellFormed (.illegal 0x01) := by decide
theorem test_wf_refuses_next_opcode : ¬ WellFormed (.illegal 0x02) := by decide
theorem test_wf_refuses_fill_opcode : ¬ WellFormed (.illegal 0x03) := by decide
theorem test_wf_accepts_other_opcodes : WellFormed (.illegal 0x00) ∧ WellFormed (.illegal 0x04) := by decide

/-! ## Decoding of words written out from the spec -/

/-- The stream of section 3.1: NEXT, FILL 2, illegal 0xFF, SEED with KLEN 1 and IVLEN 1, NEXT. -/
theorem test_decode_stream :
    decode .hostCommand [0x02, 0x03, 0x00, 0x00, 0x00, 0x02, 0xFF, 0x01, 0x01, 0x01, 0xAA, 0xBB, 0x02] =
      .instr .next [0x03, 0x00, 0x00, 0x00, 0x02, 0xFF, 0x01, 0x01, 0x01, 0xAA, 0xBB, 0x02] ∧
    decode .hostCommand [0x03, 0x00, 0x00, 0x00, 0x02, 0xFF, 0x01] = .instr (.fill 2) [0xFF, 0x01] ∧
    decode .hostCommand [0xFF, 0x01, 0x01] = .instr (.illegal 0xFF) [0x01, 0x01] ∧
    decode .hostCommand [0x01, 0x01, 0x01, 0xAA, 0xBB, 0x02] = .instr (.seed [0xAA] [0xBB]) [0x02] := by decide

theorem test_decode_fill_1000 : decode .hostCommand [0x03, 0x00, 0x00, 0x03, 0xE8] = .instr (.fill 1000) [] := by decide

theorem test_decode_empty_seed : decode .hostCommand [0x01, 0x00, 0x00] = .instr (.seed [] []) [] := by decide

/-- The key bytes are not commands (section 3.1). -/
theorem test_decode_key_bytes_are_no_commands :
    decode .hostCommand [0x01, 0x02, 0x00, 0x02, 0x02, 0x02] = .instr (.seed [0x02, 0x02] []) [0x02] := by decide

theorem test_decode_incomplete_fill :
    decode .hostCommand [0x03, 0x00, 0x00] = .reject .incompletePacket := by decide

/-- `010rrrrr` and `01100000` of R62. -/
theorem test_decode_sequencer :
    decode .sequencerState [0b01000000] = .instr (.initRound 0) [] ∧
    decode .sequencerState [0b01011111] = .instr (.initRound 31) [] ∧
    decode .sequencerState [0b01100000] = .instr .finish [] := by decide

/-- The words of R62 that select no sequencer operation. -/
theorem test_decode_sequencer_refuses :
    decode .sequencerState [0b01100001] = .reject .noSequencerOperation ∧
    decode .sequencerState [0b00000000] = .reject .noSequencerOperation ∧
    decode .sequencerState [0b10000000] = .reject .noSequencerOperation ∧
    decode .sequencerState [0b11000000] = .reject .noSequencerOperation := by decide

/-- The table rows, each at its match value. -/
theorem test_decode_table_words :
    decodeTableWord 8 0x01 = some (.seed [] []) ∧ decodeTableWord 8 0x02 = some .next ∧
    decodeTableWord 8 0x03 = some (.fill 0) ∧ decodeTableWord 8 0x00 = some (.illegal 0x00) ∧
    decodeTableWord 8 0x04 = some (.illegal 0x04) ∧ decodeTableWord 8 0x61 = some (.illegal 0x61) ∧
    decodeTableWord 8 0x80 = some (.illegal 0x80) ∧ decodeTableWord 8 0x40 = some (.initRound 0) ∧
    decodeTableWord 8 0x60 = some .finish := by decide +kernel

/-- `withFetchWord` makes the next step run the word's instruction. -/
theorem test_step_runs_table_words :
    (after (step (State.reset.withFetchWord 8 0x02))).map State.responses = some [⟨.errNotReady, []⟩] ∧
    (after (step (State.reset.withFetchWord 8 0x80))).map State.responses = some [⟨.errIllegalOpcode, []⟩] ∧
    (after (step (State.reset.withFetchWord 8 0x41))).map State.rc = some 2#6 ∧
    (after (step (State.reset.withFetchWord 8 0x60))).map State.phase = some .ready := by decide +kernel

/-! ## The datapath -/

theorem test_rot31 : rot31 0x12345678 15 = 0x2B3C1234 ∧ rot31 0x40000000 1 = 1 ∧ rot31 0x12345678 21 = 0x4F048D15 := by
  decide

theorem test_add31 :
    add31 0x7FFFFFFF 0 = 0x7FFFFFFF ∧ add31 0x7FFFFFFF 0x7FFFFFFF = 0x7FFFFFFF ∧ add31 0x7FFFFFFF 1 = 1 ∧
    add31 0x40000000 0x40000000 = 1 ∧ add31 0x12345678 0x7EDCBA98 = 0x11111111 ∧ add31 0 0 = 0 := by decide

/-- Case (c) of section 2.2: a different marker in every half. -/
theorem test_bit_reconstruction :
    bitReconstruction #v[0x5000B0C0, 0x5080B1C1, 0x5101B2C2, 0x5181B3C3, 0x5202B4C4, 0x5282B5C5, 0x5303B6C6, 0x5383B7C7,
      0x5404B8C8, 0x5484B9C9, 0x5505BACA, 0x5585BBCB, 0x5606BCCC, 0x5686BDCD, 0x5707BECE, 0x5787BFCF] =
      ⟨0xAF0FBECE, 0xBBCBA909, 0xB7C7A505, 0xB2C2A001⟩ := by decide

theorem test_mixers : mixL1 0x12345678 = 0xAA4E9357 ∧ mixL2 0x12345678 = 0xA975B26C ∧
    mixL1 0xDEADBEEF = 0x06812D22 ∧ mixL2 0xDEADBEEF = 0x50F4624E := by decide

theorem test_substitute : substitute 0x12345678 = 0xF9C05A4E ∧ substitute 0x06170617 = 0 ∧
    substitute 0x17061706 = 0xA547A547 := by decide

/-- Rows 3 and 4 of section 2.5. -/
theorem test_nonlinear_function :
    nonlinearF 0x12345678 0x9ABCDEF0 0x0F0F0F0F 0x11111111 0xFFFFFFFF = ⟨0xB7F83867, 0x54D2704D, 0xC88AB062⟩ ∧
    nonlinearF 0xFFFFFFFF 0xFFFFFFFF 0 1 0 = ⟨0xFFFFFFFE, 0x4755EEF2, 0x60483EA3⟩ := by decide

theorem test_feedback :
    feedback numbered 0x7FFFFFFF = 0x01D40101 ∧ feedback zeroLoad 0x0047CD00 = 0x4563CB1B ∧
    feedback (Vector.replicate 16 0) 0 = 0x7FFFFFFF ∧ feedback (Vector.replicate 16 0) 5 = 5 := by decide

theorem test_shift : (shift numbered 7)[0] = 2 ∧ (shift numbered 7)[14] = 16 ∧ (shift numbered 7)[15] = 7 := by decide

theorem test_injected : injected 0x008F9A00 = 0x0047CD00 ∧ injected 0xFFFFFFFF = 0x7FFFFFFF ∧ injected 1 = 0 := by decide

theorem test_load128 : load128 (zeros 16) (zeros 16) = zeroLoad := by decide

/-- Section 4.6: key 00 .. 1F, IV 80 .. 96. -/
theorem test_load256 :
    load256 ((List.range 32).map (BitVec.ofNat 8)) ((List.range 23).map fun i => BitVec.ofNat 8 (0x80 + i)) =
      #v[0x00221510, 0x00AF1611, 0x01241712, 0x01AA1813, 0x026D1914, 0x4064051A, 0x40D9061B, 0x454A0782, 0x0453838B,
        0x04E58C84, 0x42C90A1C, 0x05D6868D, 0x0656878E, 0x06D28F88, 0x07119089, 0x07BF1E1D] := by decide

/-! ## The instructions, one step each -/

/-- Section 4.1: what an accepted SEED writes. -/
theorem test_seed_loads :
    after (exec (seedZeros 16 16) { idle with r1 := 5#32, rc := 0#6 }) = some (initializing 0#6) := by decide

/-- Sections 1.3 and 3.2: which check of SEED answers. -/
theorem test_seed_errors :
    (after (exec (seedZeros 15 16) idle)).map State.responses = some [⟨.errKeySize, []⟩] ∧
    (after (exec (seedZeros 23 32) idle)).map State.responses = some [⟨.errKeySize, []⟩] ∧
    (after (exec (seedZeros 16 23) idle)).map State.responses = some [⟨.errIvSize, []⟩] ∧
    (after (exec (seedZeros 32 24) idle)).map State.responses = some [⟨.errIvSize, []⟩] ∧
    (after (exec (seedZeros 15 16) ready)).map State.responses = some [⟨.errAlreadySeeded, []⟩] := by decide

/-- Example of R130, the first round. -/
theorem test_init_round :
    registers (exec (.initRound 0) (initializing 0#6)) =
      some (0x67822141#32, 0x62A3A55F#32, 0x0026BC00#31, 0x4563CB1B#31) ∧
    control (exec (.initRound 0) (initializing 0#6)) = some (.initializing, 1#6, []) := by decide

/-- Row 2 of section 2.5 and "all-zero-key load, work mode" of section 2.6, as a FINISH on those cells: r1 = r2 = 0. -/
theorem test_finish :
    registers (exec .finish (initializing 32#6)) =
      some (0x67822141#32, 0x62A3A55F#32, 0x0026BC00#31, 0x451BFE1B#31) ∧
    control (exec .finish (initializing 32#6)) = some (.ready, 0#6, [⟨.ok, []⟩]) := by decide

/-- Example of R135, the first word of known-vector scenario 1. -/
theorem test_next :
    registers (exec .next ready) =
      some (0xC7EE7F13#32, 0x0C0FA817#32, 0x6259DD0B#31, 0x3D383D04#31) ∧
    control (exec .next ready) = some (.ready, 0#6, [⟨.ok, [0x27BEDE74#32]⟩]) := by decide

theorem test_next_not_ready : after (exec .next idle) = some { idle with responses := [⟨.errNotReady, []⟩] } := by decide

/-- Example of R138. -/
theorem test_fill :
    (after (exec (.fill 3) ready)).map (fun t => (t.r1, t.r2, t.lfsr[15], t.responses)) =
      some (0x0FE2EFDE#32, 0x920E9217#32, 0x51FDE77F#31, [⟨.ok, [0x27BEDE74#32, 0x018082DA#32, 0x87D4E5B6#32]⟩]) := by
  decide +kernel

theorem test_fill_zero : after (exec (.fill 0) ready) = some { ready with responses := [⟨.ok, []⟩] } ∧
    after (exec (.fill 0) idle) = some { idle with responses := [⟨.errNotReady, []⟩] } := by decide

theorem test_illegal :
    after (exec (.illegal 0x04) ready) = some { ready with responses := [⟨.errIllegalOpcode, []⟩] } := by decide

/-- R52: a command is held while INITIALIZING, and the step is the sequencer's. -/
theorem test_command_is_held :
    after (exec .next (initializing 3#6)) = some { initializing 3#6 with host := [.byte 0x02] } ∧
    (after (step ((initializing 3#6).withHost [.byte 0x02]))).map (fun t => (t.rc, t.host, t.responses)) =
      some (4#6, [.byte 0x02], []) := by decide

/-- R170: a reset drops a packet partly received, and it ends READY. -/
theorem test_reset :
    (after (step (ready.withHost [.byte 0x03, .byte 0x00, .rst, .byte 0x02]))).map
      (fun t => (t.phase, t.rc, t.responses, t.host)) = some (.unseeded, 0#6, [], [.byte 0x02]) := by decide

/-- R170: a FILL 3 cut when its status and one word were delivered; the words not yet delivered are lost. -/
theorem test_reset_stops_a_response :
    (after (step (ready.withHost (offer [0x03, 0x00, 0x00, 0x00, 0x03] ++ [.rstDuring 2, .byte 0x02])))).map
      (fun t => (t.phase, t.responses, t.stopped, t.host)) =
      some (.unseeded, [], [⟨0, [.status 0x00, .word 0x27BEDE74]⟩], [.byte 0x02]) := by decide +kernel

/-- R170: not even an error status, and no word of a NEXT whose word was not delivered. -/
theorem test_reset_stops_a_short_response :
    (after (step (idle.withHost [.byte 0x02, .rstDuring 5]))).map (fun t => (t.responses, t.stopped)) = some ([], []) ∧
    (after (step (ready.withHost [.byte 0x02, .rstDuring 5]))).map (fun t => (t.responses, t.stopped)) =
      some ([], [⟨0, [.status 0x00]⟩]) := by decide

/-- A wait stands behind an incomplete packet, whose bytes stay offered. -/
theorem test_wait :
    after (step (ready.withHost [.byte 0x03, .wait, .byte 0x00])) =
      some (ready.withHost [.byte 0x03, .byte 0x00]) := by decide

/-- R15 has no flags: the codes of R12, R51, R62 and R150 instead. -/
theorem test_codes :
    (initializing 32#6).sequencerWord = 0b01100000 ∧ ready.sequencerWord = 0b10000000 ∧ (initializing 0#6).busy = true ∧
    ready.cmdReady = true ∧ (⟨.errNotReady, []⟩ : Response).items = [.status 0x03] ∧
    (⟨.ok, [7]⟩ : Response).items = [.status 0x00, .word 7] := by decide

/-- The lines of R63 and R64 with a refusal of each kind. -/
theorem test_script :
    (ScriptLine.fill 1000).assemble = some (offer [0x03, 0x00, 0x00, 0x03, 0xE8]) ∧
    (ScriptLine.fill (2 ^ 32)).assemble = none ∧ (ScriptLine.seed128 (zeros 16) (zeros 15)).assemble = none ∧
    (ScriptLine.seed (zeros 256) []).assemble = none ∧
    (ScriptLine.nextTimes 2).assemble = some (offer [0x02, 0x02]) := by decide +kernel

/-! ## Witnesses: every statement's hypotheses are met together, clause by clause -/

theorem test_witness_DecodeInvertsEncode :
    WellFormed (seedZeros 255 255) ∧ WellFormed .next ∧ WellFormed (.fill 0xFFFFFFFF) ∧ WellFormed (.illegal 0xFF) ∧
    WellFormed (.initRound 31) ∧ WellFormed .finish := by decide +kernel

theorem test_witness_DecodedBytesAreTheEncoding :
    decode .hostCommand [0x02, 0x09] = .instr .next [0x09] ∧
    decode .sequencerState [0b01011111] = .instr (.initRound 31) [] := by decide

theorem test_witness_RejectedBytesBeginAPacket :
    decode .hostCommand [] = .reject .incompletePacket ∧
    decode .hostCommand (0x01 :: 0xFF :: 0x00 :: zeros 254) = .reject .incompletePacket := by decide +kernel

theorem test_witness_StepRunsTheOfferedPacket :
    ready.phase ≠ .initializing ∧
    decode .hostCommand (leadingBytes (ready.withHost [.byte 0x02, .byte 0x03, .rst]).host) = .instr .next [0x03] ∧
    cutFirst (offer [0x03] ++ afterBytes (ready.withHost [.byte 0x02, .byte 0x03, .rst]).host) = none := by decide

theorem test_witness_StepRunsTheSequencerOperation :
    (initializing 32#6).phase = .initializing ∧ resetFirst (initializing 32#6).host = false ∧
    decode .sequencerState [(initializing 32#6).sequencerWord] = .instr .finish [] := by decide

theorem test_witness_StepRunsTheEncodedCommand :
    idle.phase ≠ .initializing ∧ (seedZeros 16 16).space = .hostCommand ∧ WellFormed (seedZeros 16 16) ∧
    cutFirst [.rst] = none := by decide +kernel

theorem test_witness_Rot31MovesEveryBit : 0 < 1 ∧ 1 < 31 ∧ 0 < 30 ∧ 30 < 31 := by decide

/-- Law (c): x = 1, y = 2^31-1, z = 1 = x + y modulo P. -/
theorem test_witness_Add31IsFieldAddition :
    (0x00000001#31 ≠ 0#31 ∨ 0x7FFFFFFF#31 ≠ 0#31) ∧ 0x00000001#31 ≠ 0#31 ∧
    (0x00000001#31).toNat % 2147483647 = ((0x00000001#31).toNat + (0x7FFFFFFF#31).toNat) % 2147483647 := by decide

theorem test_witness_Rot31MultipliesByPowersOfTwo :
    0 < 1 ∧ 1 < 31 ∧ 0 < 30 ∧ 30 < 31 ∧ (0x7FFFFFFE#31).toNat < 2147483647 := by decide

theorem test_witness_Load128PlacesEveryByte :
    (zeros 16).length = 16 ∧ load128 (zeros 16) (zeros 16) = load128 (zeros 16) (zeros 16) := by decide

theorem test_witness_Load256PlacesEveryByte :
    (zeros 32).length = 32 ∧ (zeros 23).length = 23 ∧
    load256 (zeros 32) (zeros 23) = load256 (zeros 32) (zeros 23) := by decide

/-- One state and one pair of lengths for each answer of SEED. -/
theorem test_witness_SeedChecksInOrder :
    ready.phase ≠ .initializing ∧ ready.phase ≠ .unseeded ∧ idle.phase = .unseeded ∧
    ((zeros 15).length ≠ 16 ∧ (zeros 15).length ≠ 32) ∧ ((zeros 32).length = 32 ∧ (zeros 16).length ≠ 23) := by decide

theorem test_witness_SeedLoadsTheGenerator :
    idle.phase = .unseeded ∧ SeedLengthsValid (zeros 16) (zeros 16) ∧ SeedLengthsValid (zeros 32) (zeros 23) := by decide

theorem test_witness_InitRoundFeedsBackTheWord :
    (initializing 0#6).phase = .initializing ∧ (initializing 0#6).rc = (0#5).setWidth 6 ∧
    (initializing 31#6).rc = (31#5).setWidth 6 := by decide

theorem test_witness_FinishEntersReady :
    (initializing 32#6).phase = .initializing ∧ (initializing 32#6).rc = 32#6 := by decide

theorem test_witness_NextGivesOneWord : ready.phase = .ready ∧ idle.phase = .unseeded := by decide

theorem test_witness_FillIsRepeatedNext : ready.phase = .ready ∧ idle.phase = .unseeded := by decide

theorem test_witness_FillSplits :
    ready.phase = .ready ∧ (0xFFFFFFFF#32).toNat + (0#32).toNat < 2 ^ 32 := by decide

theorem test_witness_IllegalOpcodeIsAnsweredOnly :
    isIllegalOpcode 0x00 ∧ isIllegalOpcode 0x04 ∧ isIllegalOpcode 0xFF ∧ ready.phase ≠ .initializing := by decide

theorem test_witness_CommandIsHeldDuringInitialization :
    (Instr.fill 1).space = .hostCommand ∧ (initializing 32#6).phase = .initializing := by decide

theorem test_witness_SequencerOperationsStopElsewhere :
    ¬(idle.phase = .initializing ∧ idle.rc = (0#5).setWidth 6) ∧
    ¬((initializing 33#6).phase = .initializing ∧ (initializing 33#6).rc = 32#6) := by decide

/-- A response of every status. -/
theorem test_witness_StatusesHaveTheirCausesAndCodes :
    after (exec (.fill 0) ready) = some (ready.respond .ok []) ∧
    after (exec (seedZeros 0 0) idle) = some (idle.respond .errKeySize []) ∧
    after (exec (seedZeros 16 15) idle) = some (idle.respond .errIvSize []) ∧
    after (exec (.fill 0) idle) = some (idle.respond .errNotReady []) ∧
    after (exec (seedZeros 16 16) ready) = some (ready.respond .errAlreadySeeded []) ∧
    after (exec (.illegal 0x00) idle) = some (idle.respond .errIllegalOpcode []) := by decide

theorem test_witness_FailedCommandChangesNothing :
    exec .next idle = .next (idle.respond .errNotReady []) ∧
    (idle.respond .errNotReady []).responses = idle.responses ++ [⟨.errNotReady, []⟩] ∧
    Status.errNotReady ≠ .ok := ⟨rfl, by decide, by decide⟩

/-- Each operation answers a next state in a state that executes it. -/
theorem test_witness_EachPacketHasOneResponse :
    (after (exec (seedZeros 32 23) idle)).isSome ∧ (after (exec .next ready)).isSome ∧
    (after (exec (.fill 1) ready)).isSome ∧ (after (exec (.illegal 0xFF) ready)).isSome ∧
    (after (exec (.initRound 31) (initializing 31#6))).isSome ∧ (after (exec .finish (initializing 32#6))).isSome := by
  decide

theorem test_witness_ResetAbandonsEverything :
    HostEvent.rst.isReset = true ∧ (HostEvent.rstDuring 1).isReset = true ∧ ready.phase ≠ .initializing ∧ decode .hostCommand [0x01, 0x10] = .reject .incompletePacket := by decide

/-- A command of each kind: FILL 2 with two items out, an accepted SEED without a response. -/
theorem test_witness_ResetStopsAResponse :
    ready.phase ≠ .initializing ∧ (Instr.fill 2).space = .hostCommand ∧ WellFormed (.fill 2) ∧
    (after (exec (.fill 2) ready)).map State.responses = some [⟨.ok, [0x27BEDE74#32, 0x018082DA#32]⟩] ∧
    idle.phase ≠ .initializing ∧ (seedZeros 16 16).space = .hostCommand ∧ WellFormed (seedZeros 16 16) ∧
    (after (exec (seedZeros 16 16) idle)).map State.responses = some [] := by decide +kernel

theorem test_witness_IncompletePacketWaits :
    idle.phase ≠ .initializing ∧ decode .hostCommand [] = .reject .incompletePacket ∧
    decode .hostCommand [0x03, 0x00, 0x00, 0x00] = .reject .incompletePacket := by decide

theorem test_witness_BytesAreHeldDuringInitialization :
    (initializing 0#6).phase = .initializing ∧ (initializing 0#6).rc.toNat ≤ 32 ∧
    (initializing 32#6).rc.toNat ≤ 32 := by decide

theorem test_witness_InvariantIsKept :
    ready.Inv ∧ (after (step (ready.withHost [.byte 0x02]))).isSome ∧ (initializing 32#6).Inv ∧
    (after (step (initializing 32#6))).isSome := by decide

theorem test_witness_InvariantStatesStep : idle.Inv ∧ ready.Inv ∧ (initializing 31#6).Inv := by decide

/-- A step of each kind of the table of R134. -/
theorem test_witness_PhaseTransitions :
    (after (step (ready.withHost [.rst]))).map State.phase = some .unseeded ∧
    (after (step (idle.withHost [.byte 0x00]))).map State.phase = some .unseeded ∧
    (after (step (idle.withHost (offer (encode (seedZeros 16 16)))))).map State.phase = some .initializing ∧
    (after (step (initializing 31#6))).map State.rc = some 32#6 ∧
    (after (step (initializing 32#6))).map State.phase = some .ready ∧
    (after (step (ready.withHost [.byte 0x02]))).map State.phase = some .ready := by decide

theorem test_witness_InitializationEnds :
    (initializing 0#6).phase = .initializing ∧ (initializing 0#6).rc.toNat ≤ 32 ∧
    (∀ e ∈ (initializing 0#6).host, e.isReset = false) ∧
    (initializing 32#6).phase = .initializing ∧ (initializing 32#6).rc.toNat ≤ 32 ∧
    (∀ e ∈ (initializing 32#6).host, e.isReset = false) := by decide

theorem test_witness_SmallStepsMakeTheBigStep :
    idle.phase = .unseeded ∧ SeedLengthsValid (zeros 16) (zeros 16) ∧ SeedLengthsValid (zeros 32) (zeros 23) := by decide

/-- Two states that differ in r1, one step. -/
theorem test_witness_UnspecifiedRegistersAreNeverSeen :
    SameToHost (idle.withHost [.byte 0x02]) { idle.withHost [.byte 0x02] with r1 := 1#32 } ∧
    (after (run 1 (idle.withHost [.byte 0x02]))).isSome := by decide

theorem test_witness_RestartBeginsTheSameStream :
    SeedLengthsValid (zeros 16) (zeros 16) ∧
    (ready.withHost (.rst :: (offer (encode (seedZeros 16 16)) ++ offer (encode (.fill 2))))).host =
      .rst :: (offer (encode (seedZeros 16 16)) ++ offer (encode (.fill 2))) := by decide

end Sys2Proof.Tests
end

section
/-! PROOF. The statements about every step of the machine (spec/10_state.md section 3): every step keeps the
invariant, and the registers that a reset leaves unspecified are never seen. -/

namespace Sys2Proof.Machine

/-! ## The cells an accepted SEED loads are not 0 (R112, R116) -/

theorem append_ne_zero_of_left {v w : Nat} {x : BitVec v} (hx : x ≠ 0#v) (y : BitVec w) : x ++ y ≠ 0#(v + w) := by
  intro h
  apply hx
  rw [← BitVec.extractLsb'_append_eq_left (a := x) (b := y), h, BitVec.extractLsb'_zero]

theorem append_ne_zero_of_right {v w : Nat} (x : BitVec v) {y : BitVec w} (hy : y ≠ 0#w) : x ++ y ≠ 0#(v + w) := by
  intro h
  apply hy
  rw [← BitVec.extractLsb'_append_eq_right (a := x) (b := y), h, BitVec.extractLsb'_zero]

theorem cell128_ne_zero {constant : BitVec 15} (h : constant ≠ 0#15) (key iv : Byte) :
    cell128 key constant iv ≠ 0#31 :=
  append_ne_zero_of_left (append_ne_zero_of_right key h) iv

theorem cell256_ne_zero {b : BitVec 7} (h : b ≠ 0#7) (a c d : Byte) : cell256 a b c d ≠ 0#31 :=
  append_ne_zero_of_left (append_ne_zero_of_left (append_ne_zero_of_right a h) c) d

theorem const128_ne_zero : ∀ i : Fin 16, const128[i] ≠ 0#15 := by decide

theorem field256_ne_zero : ∀ i : Fin 16, field256 i ≠ 0#7 := by decide

/-- What is or-ed into the constant field of a cell does not make it 0. -/
theorem field256_or_ne_zero (i : Fin 16) (x : BitVec 7) : field256 i ||| x ≠ 0#7 :=
  fun h => field256_ne_zero i (BitVec.or_eq_zero_iff.mp h).1

theorem load128_nonzero (key iv : List Byte) : CellsNonzero (load128 key iv) := by
  intro i
  simpa [load128] using cell128_ne_zero (const128_ne_zero i) (byteAt key i) (byteAt iv i)

theorem load256_nonzero (key iv : List Byte) : CellsNonzero (load256 key iv) := by
  intro i
  match i with
  | 0 | 1 | 2 | 3 | 4 | 13 => exact cell256_ne_zero (field256_ne_zero _) _ _ _
  | 5 | 6 | 7 | 8 | 9 | 10 | 11 | 12 | 14 | 15 => exact cell256_ne_zero (field256_or_ne_zero _ _) _ _ _
  | ⟨n + 16, hi⟩ => exact absurd hi (by omega)

theorem schedule_nonzero (key iv : List Byte) : CellsNonzero (schedule key iv) := by
  unfold schedule
  split
  · exact load128_nonzero key iv
  · exact load256_nonzero key iv

/-! ## Every update of the state keeps the invariant -/

/-- The feedback is never 0, so an advance brings no zero cell (R140). -/
theorem advance_nonzero {l : Lfsr} (hl : CellsNonzero l) (inj : Cell) : CellsNonzero (advance l inj) :=
  shift_nonzero hl (feedback_ne_zero l inj)

theorem State.workRounds_nonzero {s : State} (hl : CellsNonzero s.lfsr) (n : Nat) :
    CellsNonzero (s.workRounds n).lfsr := by
  induction n generalizing s with
  | zero => exact hl
  | succ n ih => exact ih (advance_nonzero hl 0#31)

theorem State.Inv.withHost {s : State} (h : s.Inv) (host : List HostEvent) : (s.withHost host).Inv := h

theorem State.Inv.respond {s : State} (h : s.Inv) (st : Status) (ws : List Word) : (s.respond st ws).Inv := h

/-- A state with rc 0 has the invariant when its cells are right. -/
theorem State.inv_of_rc_zero {s : State} (hrc : s.rc = 0#6) (hl : s.phase ≠ .unseeded → CellsNonzero s.lfsr) :
    s.Inv :=
  ⟨by simp [hrc], fun _ => hrc, hl⟩

theorem State.resetBlock_inv (s : State) (host : List HostEvent) : (s.resetBlock host).Inv :=
  State.inv_of_rc_zero rfl fun hp => absurd rfl hp

theorem State.cutShort_inv (s : State) (r : Result) (k : Nat) (host : List HostEvent) : (s.cutShort r k host).Inv :=
  State.resetBlock_inv s host

theorem State.load_schedule_inv (s : State) (key iv : List Byte) : (s.load (schedule key iv)).Inv :=
  State.inv_of_rc_zero rfl fun _ => schedule_nonzero key iv

theorem State.Inv.workRounds {s : State} (h : s.Inv) (hp : s.phase = .ready) (n : Nat) : (s.workRounds n).Inv := by
  obtain ⟨_, hrc, hl⟩ := h
  obtain ⟨_, hrc', -⟩ := State.workRounds_frame s n
  refine State.inv_of_rc_zero (hrc'.trans (hrc ?_)) fun _ => State.workRounds_nonzero (hl ?_) n
  · simp [hp]
  · simp [hp]

/-- INIT_ROUND is selected while rc is below 32, so that it leaves rc at most 32 (R13, R129). -/
theorem State.Inv.countedRound {s : State} (h : s.Inv) (hp : s.phase = .initializing) (hrc : s.rc.toNat < 32) :
    s.countedRound.Inv := by
  obtain ⟨_, _, hl⟩ := h
  refine ⟨?_, fun hne => absurd hp hne, fun hne => advance_nonzero (hl hne) _⟩
  have hone : (1#6).toNat = 1 := rfl
  rw [State.countedRound_rc, BitVec.toNat_add, hone]
  omega

theorem State.Inv.finishingRound {s : State} (h : s.Inv) (hp : s.phase = .initializing) : s.finishingRound.Inv := by
  obtain ⟨_, _, hl⟩ := h
  exact State.inv_of_rc_zero rfl fun _ => advance_nonzero (hl (by simp [hp])) 0#31

/-! ## Every step keeps the invariant -/

theorem execSeed_keeps_inv {key iv : List Byte} {s t : State} (h : s.Inv) (he : execSeed key iv s = .next t) :
    t.Inv := by
  rcases execSeed_cases he with ⟨_, rfl⟩ | ⟨_, rfl⟩ | ⟨_, _, rfl⟩ | ⟨_, _, _, rfl⟩ | ⟨_, _, _, rfl⟩
  · exact h.withHost _
  · exact h.respond _ _
  · exact h.respond _ _
  · exact h.respond _ _
  · exact State.load_schedule_inv s key iv

theorem execNext_keeps_inv {s t : State} (h : s.Inv) (he : execNext s = .next t) : t.Inv := by
  rcases execNext_cases he with ⟨_, rfl⟩ | ⟨_, rfl⟩ | ⟨hp, rfl⟩
  · exact h.withHost _
  · exact h.respond _ _
  · exact (h.workRounds hp 1).respond _ _

theorem execFill_keeps_inv {n : BitVec 32} {s t : State} (h : s.Inv) (he : execFill n s = .next t) : t.Inv := by
  rcases execFill_cases he with ⟨_, rfl⟩ | ⟨_, rfl⟩ | ⟨hp, rfl⟩
  · exact h.withHost _
  · exact h.respond _ _
  · exact (h.workRounds hp n.toNat).respond _ _

theorem execIllegal_keeps_inv {opcode : Byte} {s t : State} (h : s.Inv) (he : execIllegal opcode s = .next t) :
    t.Inv := by
  rcases execIllegal_cases he with ⟨_, rfl⟩ | ⟨_, rfl⟩
  · exact h.withHost _
  · exact h.respond _ _

theorem execInitRound_keeps_inv {r : BitVec 5} {s t : State} (h : s.Inv) (he : execInitRound r s = .next t) :
    t.Inv := by
  obtain ⟨hp, hrc, rfl⟩ := execInitRound_cases he
  refine h.countedRound hp ?_
  rw [hrc, BitVec.toNat_setWidth]
  omega

theorem execFinish_keeps_inv {s t : State} (h : s.Inv) (he : execFinish s = .next t) : t.Inv := by
  obtain ⟨hp, _, rfl⟩ := execFinish_cases he
  exact h.finishingRound hp

/-- Every operation keeps the invariant in every state where it answers a next state. -/
theorem exec_keeps_inv {i : Instr} {s t : State} (h : s.Inv) (he : exec i s = .next t) : t.Inv := by
  cases i with
  | seed key iv => exact execSeed_keeps_inv h he
  | next => exact execNext_keeps_inv h he
  | fill n => exact execFill_keeps_inv h he
  | illegal opcode => exact execIllegal_keeps_inv h he
  | initRound r => exact execInitRound_keeps_inv h he
  | finish => exact execFinish_keeps_inv h he

/-- Settles O40: a step is one operation, a reset, or waiting, and each of them keeps the invariant. -/
theorem invariantIsKept : Obligations.InvariantIsKept := by
  intro s t h hs
  unfold step at hs
  split at hs
  case h_1 i host _ => exact exec_keeps_inv (h.withHost host) hs
  case h_2 i k host _ =>
    cases hs
    exact s.cutShort_inv _ k host
  case h_3 host _ =>
    cases hs
    exact s.resetBlock_inv host
  case h_4 host _ =>
    cases hs
    exact h.withHost host
  case h_5 => cases hs

/-! ## States that look the same to the host stay so under every update (R20, R171) -/

theorem SameToHost.withHost {s t : State} (h : SameToHost s t) (host : List HostEvent) :
    SameToHost (s.withHost host) (t.withHost host) := by
  obtain ⟨hp, hrc, _, hr, hst, hreg⟩ := h
  exact ⟨hp, hrc, rfl, hr, hst, hreg⟩

theorem SameToHost.respond {s t : State} (h : SameToHost s t) (st : Status) (ws : List Word) :
    SameToHost (s.respond st ws) (t.respond st ws) := by
  obtain ⟨hp, hrc, hh, hr, hst, hreg⟩ := h
  refine ⟨hp, hrc, hh, ?_, hst, hreg⟩
  rw [State.respond_responses, State.respond_responses, hr]

/-- SEED overwrites the registers, so it makes them equal (R20). -/
theorem SameToHost.load {s t : State} (h : SameToHost s t) (sched : Lfsr) :
    SameToHost (s.load sched) (t.load sched) := by
  obtain ⟨_, _, hh, hr, hst, _⟩ := h
  exact ⟨rfl, rfl, hh, hr, hst, fun _ => ⟨rfl, rfl, rfl⟩⟩

/-- A reset leaves any registers, but in UNSEEDED (R171). -/
theorem SameToHost.resetBlock {s t : State} (h : SameToHost s t) (host : List HostEvent) :
    SameToHost (s.resetBlock host) (t.resetBlock host) := by
  obtain ⟨_, _, _, hr, hst, _⟩ := h
  refine ⟨by simp, by simp, by simp, by simpa using hr, by simpa using hst, fun hp => ?_⟩
  exact absurd (State.resetBlock_phase s host) hp

/-- Outside UNSEEDED F gives the same, because it reads lfsr, r1 and r2 only. -/
theorem SameToHost.mixed_eq {s t : State} (h : SameToHost s t) (hp : s.phase ≠ .unseeded) : s.mixed = t.mixed := by
  obtain ⟨_, _, _, _, _, hreg⟩ := h
  obtain ⟨hl, h1, h2⟩ := hreg hp
  simp only [State.mixed, State.wires, hl, h1, h2]

theorem SameToHost.keyWord_eq {s t : State} (h : SameToHost s t) (hp : s.phase ≠ .unseeded) :
    s.keyWord = t.keyWord := by
  have hm := h.mixed_eq hp
  obtain ⟨_, _, _, _, _, hreg⟩ := h
  obtain ⟨hl, _, _⟩ := hreg hp
  simp only [State.keyWord, State.wires, hl, hm]

theorem SameToHost.round {s t : State} (h : SameToHost s t) (hp : s.phase ≠ .unseeded) (m : Mode) :
    SameToHost (s.round m) (t.round m) := by
  have hm := h.mixed_eq hp
  obtain ⟨hph, hrc, hh, hr, hst, hreg⟩ := h
  obtain ⟨hl, _, _⟩ := hreg hp
  refine ⟨hph, hrc, hh, hr, hst, fun _ => ⟨?_, congrArg MixResult.r1 hm, congrArg MixResult.r2 hm⟩⟩
  cases m with
  | initialization => simp only [State.round_lfsr, State.injection, hl, hm]
  | work => simp only [State.round_lfsr, State.injection, hl]

theorem SameToHost.workRounds {s t : State} (h : SameToHost s t) (hp : s.phase ≠ .unseeded) (n : Nat) :
    SameToHost (s.workRounds n) (t.workRounds n) := by
  induction n generalizing s t with
  | zero => exact h
  | succ n ih => exact ih (h.round hp .work) hp

theorem SameToHost.keyWords_eq {s t : State} (h : SameToHost s t) (hp : s.phase ≠ .unseeded) (n : Nat) :
    s.keyWords n = t.keyWords n := by
  induction n generalizing s t with
  | zero => rfl
  | succ n ih => rw [State.keyWords_succ, State.keyWords_succ, h.keyWord_eq hp, ih (h.round hp .work) hp]

theorem SameToHost.countedRound {s t : State} (h : SameToHost s t) (hp : s.phase ≠ .unseeded) :
    SameToHost s.countedRound t.countedRound := by
  obtain ⟨hph, hrc, hh, hr, hst, hreg⟩ := h.round hp .initialization
  exact ⟨hph, congrArg (· + 1#6) hrc, hh, hr, hst, hreg⟩

theorem SameToHost.finishingRound {s t : State} (h : SameToHost s t) (hp : s.phase ≠ .unseeded) :
    SameToHost s.finishingRound t.finishingRound := by
  obtain ⟨_, _, hh, hr, hst, hreg⟩ := h.round hp .work
  have hready : SameToHost { s.round .work with phase := .ready, rc := 0#6 }
      { t.round .work with phase := .ready, rc := 0#6 } := ⟨rfl, rfl, hh, hr, hst, fun _ => hreg hp⟩
  exact hready.respond .ok []

/-! ## Outcomes that look the same to the host -/

/-- Two outcomes of the same kind: next states that look the same to the host, or the same reason to stop. -/
inductive SameResult : Result → Result → Prop where
  | next {s t : State} (h : SameToHost s t) : SameResult (.next s) (.next t)
  | fault (f : Fault) : SameResult (.fault f) (.fault f)
  | refused (r : Refusal) : SameResult (.refused r) (.refused r)

theorem SameResult.raise {s t : State} (h : SameToHost s t) (st : Status) : SameResult (s.raise st) (t.raise st) :=
  .next (h.respond st [])

/-- A command that is held changes the host's list alone, so only its meaning outside INITIALIZING counts. -/
theorem SameResult.takeCommand {s t : State} (h : SameToHost s t) (i : Instr) {meaning : State → Result}
    (hm : SameResult (meaning s) (meaning t)) : SameResult (s.takeCommand i meaning) (t.takeCommand i meaning) := by
  have ⟨hp, _, hh, _⟩ := h
  by_cases hi : s.phase = .initializing
  · rw [State.takeCommand_of_initializing hi, State.takeCommand_of_initializing (hp ▸ hi), hh]
    exact .next (h.withHost _)
  · rw [State.takeCommand_of_idle hi, State.takeCommand_of_idle (hp ▸ hi)]
    exact hm

theorem execSeed_sameResult {s t : State} (h : SameToHost s t) (key iv : List Byte) :
    SameResult (execSeed key iv s) (execSeed key iv t) := by
  refine SameResult.takeCommand h _ ?_
  have ⟨hph, _⟩ := h
  simp only [← hph]
  split
  · exact .raise h _
  split
  · exact .raise h _
  split
  · exact .raise h _
  · exact .next (h.load _)

theorem execNext_sameResult {s t : State} (h : SameToHost s t) : SameResult (execNext s) (execNext t) := by
  refine SameResult.takeCommand h _ ?_
  have ⟨hph, _⟩ := h
  simp only [← hph]
  split
  · exact .raise h _
  next hp =>
    have hne : s.phase ≠ .unseeded := by simp [not_not.mp hp]
    rw [h.keyWord_eq hne]
    exact .next ((h.round hne .work).respond _ _)

theorem execFill_sameResult {s t : State} (h : SameToHost s t) (n : BitVec 32) :
    SameResult (execFill n s) (execFill n t) := by
  refine SameResult.takeCommand h _ ?_
  have ⟨hph, _⟩ := h
  simp only [← hph]
  split
  · exact .raise h _
  next hp =>
    have hne : s.phase ≠ .unseeded := by simp [not_not.mp hp]
    rw [h.keyWords_eq hne]
    exact .next ((h.workRounds hne _).respond _ _)

theorem execIllegal_sameResult {s t : State} (h : SameToHost s t) (opcode : Byte) :
    SameResult (execIllegal opcode s) (execIllegal opcode t) :=
  SameResult.takeCommand (meaning := (·.raise .errIllegalOpcode)) h _ (.raise h _)

theorem execInitRound_sameResult {s t : State} (h : SameToHost s t) (r : BitVec 5) :
    SameResult (execInitRound r s) (execInitRound r t) := by
  have ⟨hp, hrc, _⟩ := h
  unfold execInitRound
  rw [← hp, ← hrc]
  split
  next hsel => exact .next (h.countedRound (by simp [hsel.1]))
  · exact .fault _

theorem execFinish_sameResult {s t : State} (h : SameToHost s t) : SameResult (execFinish s) (execFinish t) := by
  have ⟨hp, hrc, _⟩ := h
  unfold execFinish
  rw [← hp, ← hrc]
  split
  next hsel => exact .next (h.finishingRound (by simp [hsel.1]))
  · exact .fault _

theorem exec_sameResult {s t : State} (h : SameToHost s t) (i : Instr) : SameResult (exec i s) (exec i t) := by
  cases i with
  | seed key iv => exact execSeed_sameResult h key iv
  | next => exact execNext_sameResult h
  | fill n => exact execFill_sameResult h n
  | illegal opcode => exact execIllegal_sameResult h opcode
  | initRound r => exact execInitRound_sameResult h r
  | finish => exact execFinish_sameResult h

/-! ## Steps and runs of states that look the same to the host -/

/-- What an operation delivers is in its responses, so it is the same. -/
theorem SameResult.itemsGiven_eq {s t : State} {a b : Result} (hr : s.responses = t.responses) (h : SameResult a b) :
    s.itemsGiven a = t.itemsGiven b := by
  cases h with
  | next hn =>
    obtain ⟨_, _, _, hr', _⟩ := hn
    simp only [State.itemsGiven, hr, hr']
  | fault f => rfl
  | refused r => rfl

theorem SameToHost.cutShort {s t : State} (h : SameToHost s t) {a b : Result} (hab : SameResult a b) (k : Nat)
    (host : List HostEvent) : SameToHost (s.cutShort a k host) (t.cutShort b k host) := by
  have ⟨_, _, _, hr, hst, _⟩ := h
  obtain ⟨hp, hrc, hh, hr', _, hreg⟩ := h.resetBlock host
  refine ⟨hp, hrc, hh, hr', ?_, hreg⟩
  rw [State.cutShort_stopped, State.cutShort_stopped, hab.itemsGiven_eq hr, hr, hst]

/-- The fetch reads phase, rc and the host's list only. -/
theorem SameToHost.fetch_eq {s t : State} (h : SameToHost s t) : s.fetch = t.fetch := by
  obtain ⟨hp, hrc, hh, _⟩ := h
  simp only [State.fetch, State.sequencerWord, hp, hrc, hh]

theorem step_sameResult {s t : State} (h : SameToHost s t) : SameResult (step s) (step t) := by
  unfold step
  rw [← h.fetch_eq]
  cases s.fetch with
  | execute i host => exact exec_sameResult (h.withHost host) i
  | cut i k host => exact .next (h.cutShort (exec_sameResult (h.withHost host) i) k host)
  | reset host => exact .next (h.resetBlock host)
  | idle host => exact .next (h.withHost host)
  | stuck => exact .fault _

theorem run_sameResult {s t : State} (h : SameToHost s t) (n : Nat) : SameResult (run n s) (run n t) := by
  induction n generalizing s t with
  | zero => exact .next h
  | succ n ih =>
    have hstep := step_sameResult h
    rw [run, run]
    generalize step s = a at hstep
    generalize step t = b at hstep
    cases hstep with
    | next h' => exact ih h'
    | fault f => exact .fault f
    | refused r => exact .refused r

/-- Settles O46, by a simulation: the step of the one state answers what the step of the other does, up to the
unspecified registers, and so does every run. -/
theorem unspecifiedRegistersAreNeverSeen : Obligations.UnspecifiedRegistersAreNeverSeen := by
  intro n s t s' h hs
  have hrun := run_sameResult h n
  rw [hs] at hrun
  generalize run n t = b at hrun
  cases hrun with
  | next h' => exact ⟨_, rfl, h'⟩

end Sys2Proof.Machine
end

section
/-! PROOF. The packet decoder and the encoder against each other (spec/30_encoding.md R53 to R62): what is decoded is an
encoding, what is rejected begins one, and so a byte string splits in exactly one way (R57). -/

namespace Sys2Proof

/-! ## The shape of an encoding -/

theorem encode_ne_nil (i : Instr) : encode i ≠ [] := by
  cases i <;> exact List.cons_ne_nil _ _

/-- A length that fits its field is the value of the field (R59). -/
theorem toNat_lengthField {n : Nat} (h : n ≤ 255) : (BitVec.ofNat 8 n).toNat = n := by
  rw [BitVec.toNat_ofNat]
  omega

/-- Two length bytes and a body of that length are a SEED packet: the body is cut where the key ends (R53, R54). -/
theorem encode_seed_of_body {klen ivlen : Byte} {body : List Byte} (h : body.length = klen.toNat + ivlen.toNat) :
    WellFormed (.seed (body.take klen.toNat) (body.drop klen.toNat)) ∧
      encode (.seed (body.take klen.toNat) (body.drop klen.toNat)) = 0x01#8 :: klen :: ivlen :: body := by
  have hk : (body.take klen.toNat).length = klen.toNat := by
    rw [List.length_take]
    omega
  have hv : (body.drop klen.toNat).length = ivlen.toNat := by
    rw [List.length_drop]
    omega
  constructor
  · have := klen.isLt
    have := ivlen.isLt
    exact decide_eq_true ⟨by omega, by omega⟩
  · simp only [encode, hk, hv, BitVec.ofNat_toNat, BitVec.setWidth_eq, List.take_append_drop]

/-- N goes most significant byte first (R35, R56). -/
theorem encode_fill_of_bytes (b1 b2 b3 b4 : Byte) :
    encode (.fill (b1 ++ b2 ++ b3 ++ b4)) = [0x03#8, b1, b2, b3, b4] := by
  have h1 : (b1 ++ b2 ++ b3 ++ b4).extractLsb' 24 8 = b1 := by
    rw [BitVec.extractLsb'_append_eq_of_le (by decide), BitVec.extractLsb'_append_eq_of_le (by decide)]
    exact BitVec.extractLsb'_append_eq_left
  have h2 : (b1 ++ b2 ++ b3 ++ b4).extractLsb' 16 8 = b2 := by
    rw [BitVec.extractLsb'_append_eq_of_le (by decide), BitVec.extractLsb'_append_eq_of_le (by decide)]
    exact BitVec.extractLsb'_append_eq_right
  have h3 : (b1 ++ b2 ++ b3 ++ b4).extractLsb' 8 8 = b3 := by
    rw [BitVec.extractLsb'_append_eq_of_le (by decide)]
    exact BitVec.extractLsb'_append_eq_right
  have h4 : (b1 ++ b2 ++ b3 ++ b4).extractLsb' 0 8 = b4 := BitVec.extractLsb'_append_eq_right
  simp only [encode, h1, h2, h3, h4]

/-- The four bytes of a word, put together again, are the word. -/
theorem bytes_of_word (n : BitVec 32) :
    n.extractLsb' 24 8 ++ n.extractLsb' 16 8 ++ n.extractLsb' 8 8 ++ n.extractLsb' 0 8 = n := by
  rw [BitVec.extractLsb'_append_extractLsb'_eq_extractLsb' (by rfl),
    BitVec.extractLsb'_append_extractLsb'_eq_extractLsb' (by rfl),
    BitVec.extractLsb'_append_extractLsb'_eq_extractLsb' (by rfl)]
  exact BitVec.extractLsb'_eq_self

/-! ## Decoding an encoding -/

theorem decodeSeed_of_fits {key iv : List Byte} (h : seedLengthsFit key iv) (rest : List Byte) :
    decodeSeed (BitVec.ofNat 8 key.length :: BitVec.ofNat 8 iv.length :: (key ++ iv ++ rest)) =
      .instr (.seed key iv) rest := by
  obtain ⟨hk, hv⟩ := h
  have hlen : ¬(key ++ iv ++ rest).length < key.length + iv.length := by
    simp only [List.length_append]
    omega
  have hdrop : (key ++ iv ++ rest).drop (key.length + iv.length) = rest := by
    rw [← List.length_append, List.drop_left]
  simp only [decodeSeed, toNat_lengthField hk, toNat_lengthField hv]
  rw [if_neg hlen, hdrop, List.append_assoc, List.take_left, List.drop_left, List.take_left]

/-- The decoder reads a well-formed command from its packet and leaves what follows it (R53 to R61). -/
theorem decode_encode {i : Instr} (hi : i.space = .hostCommand) (hw : WellFormed i) (rest : List Byte) :
    decode .hostCommand (encode i ++ rest) = .instr i rest := by
  cases i with
  | seed key iv => exact decodeSeed_of_fits (of_decide_eq_true hw) rest
  | next => rfl
  | fill n => exact congrArg (fun m => Decoded.instr (.fill m) rest) (bytes_of_word n)
  | illegal opcode =>
    obtain ⟨h1, h2, h3⟩ : isIllegalOpcode opcode := of_decide_eq_true hw
    simp [decode, decodePacket, encode, h1, h2, h3]
  | initRound r => cases hi
  | finish => cases hi

/-! ## All that the decoder can give -/

/-- Some further bytes make the string exactly one packet. -/
def BeginsAPacket (bytes : List Byte) : Prop :=
  ∃ more i, more ≠ [] ∧ i.space = .hostCommand ∧ WellFormed i ∧ bytes ++ more = encode i

/-- What a decoder of packets may answer for a byte string: the command whose encoding stands first, with what follows
it, or that a packet is begun and not complete (R57). -/
def FaithfulAnswer (bytes : List Byte) (d : Decoded) : Prop :=
  (∃ i rest, i.space = .hostCommand ∧ WellFormed i ∧ bytes = encode i ++ rest ∧ d = .instr i rest) ∨
  (BeginsAPacket bytes ∧ d = .reject .incompletePacket)

/-- A SEED that lacks a length byte is completed by lengths of 0, and one that lacks a part of its body by any bytes. -/
theorem decodeSeed_faithful (body : List Byte) : FaithfulAnswer (0x01#8 :: body) (decodeSeed body) := by
  match body with
  | [] => exact .inr ⟨⟨[0#8, 0#8], .seed [] [], List.cons_ne_nil _ _, rfl, rfl, rfl⟩, rfl⟩
  | [klen] =>
    obtain ⟨hw, he⟩ := encode_seed_of_body (klen := klen) (ivlen := 0#8) (body := List.replicate klen.toNat 0#8)
      List.length_replicate
    exact .inr ⟨⟨_, _, List.cons_ne_nil _ _, rfl, hw, he.symm⟩, rfl⟩
  | klen :: ivlen :: body =>
    by_cases hlen : body.length < klen.toNat + ivlen.toNat
    · obtain ⟨hw, he⟩ := encode_seed_of_body (klen := klen) (ivlen := ivlen)
        (body := body ++ List.replicate (klen.toNat + ivlen.toNat - body.length) 0#8)
        (by rw [List.length_append, List.length_replicate]; omega)
      refine .inr ⟨⟨_, _, ?_, rfl, hw, he.symm⟩, if_pos hlen⟩
      rw [Ne, List.replicate_eq_nil_iff]
      omega
    · obtain ⟨hw, he⟩ := encode_seed_of_body (klen := klen) (ivlen := ivlen)
        (body := body.take (klen.toNat + ivlen.toNat)) (by rw [List.length_take]; omega)
      have hkey : (body.take (klen.toNat + ivlen.toNat)).take klen.toNat = body.take klen.toNat := by
        rw [List.take_take, Nat.min_eq_left (Nat.le_add_right _ _)]
      have hiv : (body.take (klen.toNat + ivlen.toNat)).drop klen.toNat = (body.drop klen.toNat).take ivlen.toNat := by
        rw [List.drop_take, Nat.add_sub_cancel_left]
      rw [hkey, hiv] at hw he
      refine .inl ⟨_, body.drop (klen.toNat + ivlen.toNat), rfl, hw, ?_, if_neg hlen⟩
      rw [he, List.cons_append, List.cons_append, List.cons_append, List.take_append_drop]

/-- A FILL that lacks bytes of N is completed by bytes 0. -/
theorem decodeFill_faithful (body : List Byte) : FaithfulAnswer (0x03#8 :: body) (decodeFill body) := by
  have complete (b1 b2 b3 b4 : Byte) {more : List Byte} (hm : more ≠ []) (h : body ++ more = [b1, b2, b3, b4]) :
      BeginsAPacket (0x03#8 :: body) :=
    ⟨more, .fill (b1 ++ b2 ++ b3 ++ b4), hm, rfl, rfl, by rw [encode_fill_of_bytes, ← h]; rfl⟩
  match body with
  | [] => exact .inr ⟨complete 0#8 0#8 0#8 0#8 (List.cons_ne_nil _ _) rfl, rfl⟩
  | [b1] => exact .inr ⟨complete b1 0#8 0#8 0#8 (List.cons_ne_nil _ _) rfl, rfl⟩
  | [b1, b2] => exact .inr ⟨complete b1 b2 0#8 0#8 (List.cons_ne_nil _ _) rfl, rfl⟩
  | [b1, b2, b3] => exact .inr ⟨complete b1 b2 b3 0#8 (List.cons_ne_nil _ _) rfl, rfl⟩
  | b1 :: b2 :: b3 :: b4 :: rest =>
    exact .inl ⟨.fill (b1 ++ b2 ++ b3 ++ b4), rest, rfl, rfl, by rw [encode_fill_of_bytes]; rfl, rfl⟩

/-- For every byte string: the packet decoder takes an encoding, or the string begins one (R57). -/
theorem decode_faithful (bytes : List Byte) : FaithfulAnswer bytes (decode .hostCommand bytes) := by
  match bytes with
  | [] => exact .inr ⟨⟨[0x02#8], .next, List.cons_ne_nil _ _, rfl, rfl, rfl⟩, rfl⟩
  | opcode :: body =>
    simp only [decode, decodePacket]
    split
    case isTrue h1 => exact h1 ▸ decodeSeed_faithful body
    case isFalse h1 =>
      split
      case isTrue h2 => exact .inl ⟨.next, body, rfl, rfl, h2 ▸ rfl, rfl⟩
      case isFalse h2 =>
        split
        case isTrue h3 => exact h3 ▸ decodeFill_faithful body
        case isFalse h3 => exact .inl ⟨.illegal opcode, body, rfl, decide_eq_true ⟨h1, h2, h3⟩, rfl, rfl⟩

/-- The packet decoder takes exactly the encodings of the well-formed commands (R57, R60, R61). -/
theorem decode_eq_instr_iff {bytes rest : List Byte} {i : Instr} :
    decode .hostCommand bytes = .instr i rest ↔
      i.space = .hostCommand ∧ WellFormed i ∧ bytes = encode i ++ rest := by
  constructor
  · intro h
    obtain ⟨j, more, hj, hw, hb, hd⟩ | ⟨_, hd⟩ := decode_faithful bytes
    · cases h.symm.trans hd
      exact ⟨hj, hw, hb⟩
    · cases h.symm.trans hd
  · rintro ⟨hi, hw, rfl⟩
    exact decode_encode hi hw rest

/-- What the packet decoder rejects is incomplete and begins a packet (R57). -/
theorem beginsAPacket_of_reject {bytes : List Byte} {why : DecodeError}
    (h : decode .hostCommand bytes = .reject why) : why = .incompletePacket ∧ BeginsAPacket bytes := by
  obtain ⟨_, _, _, _, _, hd⟩ | ⟨hb, hd⟩ := decode_faithful bytes
  · cases h.symm.trans hd
  · cases h.symm.trans hd
    exact ⟨rfl, hb⟩

/-- Settles O5: the bytes that complete the packet make it an encoding, and an encoding is decoded. -/
theorem rejectedBytesBeginAPacket : Obligations.RejectedBytesBeginAPacket := by
  intro bytes why h
  obtain ⟨hwhy, more, i, hm, hi, hw, he⟩ := beginsAPacket_of_reject h
  refine ⟨hwhy, more, i, hm, ?_⟩
  rw [he, ← List.append_nil (encode i)]
  exact decode_encode hi hw []

/-! ## Splitting a byte string into packets (R57) -/

/-- `bytes` is the encodings of the well-formed commands `p.1` in order, then `p.2`, which holds no complete packet. -/
def SplitsInto (bytes : List Byte) (p : List Instr × List Byte) : Prop :=
  (∀ i ∈ p.1, i.space = .hostCommand ∧ WellFormed i) ∧
    bytes = (p.1.map encode).flatten ++ p.2 ∧ ∃ why, decode .hostCommand p.2 = .reject why

/-- Without a packet in it, a string is its own remainder. -/
theorem splitsInto_nil {bytes r : List Byte} :
    SplitsInto bytes ([], r) ↔ bytes = r ∧ ∃ why, decode .hostCommand bytes = .reject why := by
  constructor
  · rintro ⟨_, rfl, why, h⟩
    exact ⟨rfl, why, h⟩
  · rintro ⟨rfl, why, h⟩
    exact ⟨nofun, rfl, why, h⟩

/-- The first command of a splitting is the one the decoder takes, and the others split what it leaves. -/
theorem splitsInto_cons {bytes r : List Byte} {i : Instr} {is : List Instr} :
    SplitsInto bytes (i :: is, r) ↔ ∃ rest, decode .hostCommand bytes = .instr i rest ∧ SplitsInto rest (is, r) := by
  constructor
  · rintro ⟨hall, rfl, hr⟩
    obtain ⟨⟨hi, hw⟩, his⟩ := List.forall_mem_cons.mp hall
    exact ⟨_, decode_eq_instr_iff.mpr ⟨hi, hw, List.append_assoc _ _ _⟩, his, rfl, hr⟩
  · rintro ⟨rest, hd, his, rfl, hr⟩
    obtain ⟨hi, hw, rfl⟩ := decode_eq_instr_iff.mp hd
    exact ⟨List.forall_mem_cons.mpr ⟨⟨hi, hw⟩, his⟩, (List.append_assoc _ _ _).symm, hr⟩

/-- Taking packets while there are complete ones ends, because every packet has a byte. -/
theorem exists_splitsInto (bytes : List Byte) : ∃ p, SplitsInto bytes p := by
  cases hd : decode .hostCommand bytes with
  | reject why => exact ⟨([], bytes), splitsInto_nil.mpr ⟨rfl, why, hd⟩⟩
  | instr i rest =>
    have hlt : rest.length < bytes.length := by
      obtain ⟨_, _, rfl⟩ := decode_eq_instr_iff.mp hd
      have := List.length_pos_of_ne_nil (encode_ne_nil i)
      rw [List.length_append]
      omega
    obtain ⟨⟨is, r⟩, h⟩ := exists_splitsInto rest
    exact ⟨(i :: is, r), splitsInto_cons.mpr ⟨rest, hd, h⟩⟩
termination_by bytes.length

/-- Two splittings agree packet by packet, because the decoder gives one answer. -/
theorem SplitsInto.unique {bytes r r' : List Byte} {is js : List Instr} (h : SplitsInto bytes (is, r))
    (h' : SplitsInto bytes (js, r')) : is = js ∧ r = r' := by
  induction is generalizing bytes js with
  | nil =>
    obtain ⟨rfl, why, hd⟩ := splitsInto_nil.mp h
    cases js with
    | nil =>
      obtain ⟨rfl, _⟩ := splitsInto_nil.mp h'
      exact ⟨rfl, rfl⟩
    | cons j js =>
      obtain ⟨rest, hd', _⟩ := splitsInto_cons.mp h'
      cases hd.symm.trans hd'
  | cons i is ih =>
    obtain ⟨rest, hd, hs⟩ := splitsInto_cons.mp h
    cases js with
    | nil =>
      obtain ⟨_, why, hd'⟩ := splitsInto_nil.mp h'
      cases hd.symm.trans hd'
    | cons j js =>
      obtain ⟨rest', hd', hs'⟩ := splitsInto_cons.mp h'
      cases hd.symm.trans hd'
      obtain ⟨rfl, rfl⟩ := ih hs hs'
      exact ⟨rfl, rfl⟩

/-- Settles O4: a splitting exists by taking packet after packet, and any other one takes the same packets. -/
theorem byteStreamSplitsInExactlyOneWay : Obligations.ByteStreamSplitsInExactlyOneWay := by
  intro bytes
  obtain ⟨p, hp⟩ := exists_splitsInto bytes
  refine ⟨p, hp, fun q hq => ?_⟩
  obtain ⟨his, hr⟩ := SplitsInto.unique hq hp
  exact Prod.ext his hr

end Sys2Proof
end

section
/-! PROOF. The block at its command port (spec/30_encoding.md R52, R57, R58, R64): what a step takes, what is held and
what waits, the responses of each operation, and the script's pseudo-commands. -/

namespace Sys2Proof.Machine

/-! ## A state that takes commands -/

theorem State.fetch_of_idle {s : State} (hp : s.phase ≠ .initializing) : s.fetch = fetchCommand s.host := if_neg hp

theorem fetchCommand_of_instr {h : List HostEvent} {i : Instr} {rest : List Byte}
    (hd : decode .hostCommand (leadingBytes h) = .instr i rest) (hc : cutFirst (offer rest ++ afterBytes h) = none) :
    fetchCommand h = .execute i (offer rest ++ afterBytes h) := by
  simp only [fetchCommand, hd, hc]

/-- Settles O7: outside INITIALIZING the fetch is the packet decoder's on the bytes offered first. -/
theorem stepRunsTheOfferedPacket : Obligations.StepRunsTheOfferedPacket := by
  intro s i rest hp hd hc
  rw [step, State.fetch_of_idle hp, fetchCommand_of_instr hd hc]

theorem fetchCommand_of_reject {bytes : List Byte} {why : DecodeError} (hd : decode .hostCommand bytes = .reject why) :
    fetchCommand (offer bytes) = .idle (offer bytes) := by
  have hl : leadingBytes (offer bytes) = bytes := by simpa using leadingBytes_offer bytes []
  have ha : afterBytes (offer bytes) = [] := by simpa using afterBytes_offer bytes []
  simp only [fetchCommand, hl, ha, hd]

/-- Settles O37: without a complete packet the fetch is the waiting one (log 4). -/
theorem incompletePacketWaits : Obligations.IncompletePacketWaits := by
  intro s bytes why hp hd
  have hf : (s.withHost (offer bytes)).fetch = .idle (offer bytes) :=
    (State.fetch_of_idle (s := s.withHost (offer bytes)) hp).trans (fetchCommand_of_reject hd)
  simp only [step, hf, State.withHost_withHost]

/-! ## INITIALIZING -/

/-- Settles O31: the meaning of every command goes through `State.takeCommand`, which holds it. -/
theorem commandIsHeldDuringInitialization : Obligations.CommandIsHeldDuringInitialization := by
  intro i s hi hp
  cases i with
  | seed key iv =>
    rw [exec, execSeed, State.takeCommand_of_initializing hp]
    rfl
  | next =>
    rw [exec, execNext, State.takeCommand_of_initializing hp]
    rfl
  | fill n =>
    rw [exec, execFill, State.takeCommand_of_initializing hp]
    rfl
  | illegal opcode =>
    rw [exec, execIllegal, State.takeCommand_of_initializing hp]
    rfl
  | initRound r => cases hi
  | finish => cases hi

/-- What the sequencer does next to a state of INITIALIZING with rc at most 32 (R129). -/
def State.sequenced (s : State) : State := if s.rc.toNat < 32 then s.countedRound else s.finishingRound

@[simp] theorem State.sequenced_withHost (s : State) (h : List HostEvent) :
    (s.withHost h).sequenced = s.sequenced.withHost h := by
  unfold State.sequenced
  rw [State.withHost_rc]
  split
  · exact State.countedRound_withHost s h
  · exact State.finishingRound_withHost s h

/-- Without a reset, a step of INITIALIZING is the sequencer's, whatever the host offers (R129, R131). -/
theorem step_sequenced {s : State} (hp : s.phase = .initializing) (hrc : s.rc.toNat ≤ 32)
    (hr : resetFirst s.host = false) : step s = .next (s.sequenced.withHost (dropWait s.host)) := by
  rw [← State.sequenced_withHost]
  obtain ⟨e, h, he, hh, _⟩ | ⟨_, ⟨hlt, hs⟩ | ⟨heq, hs⟩ | ⟨hgt, _⟩⟩ := step_initializing_cases hp
  · rw [hh, resetFirst, he] at hr
    cases hr
  · rw [hs, State.sequenced, State.withHost_rc, if_pos hlt]
  · rw [hs, State.sequenced, State.withHost_rc, heq, if_neg (by decide)]
  · omega

theorem resetFirst_offer (bytes : List Byte) : resetFirst (offer bytes) = false := by
  cases bytes <;> rfl

theorem dropWait_offer (bytes : List Byte) : dropWait (offer bytes) = offer bytes := by
  cases bytes <;> rfl

/-- Settles O38: offered bytes are no reset and no `wait`, so the sequencer's step does not see them. -/
theorem bytesAreHeldDuringInitialization : Obligations.BytesAreHeldDuringInitialization := by
  intro s bytes hp hrc
  have hstep (bs : List Byte) : step (s.withHost (offer bs)) = .next (s.sequenced.withHost (offer bs)) := by
    have h := step_sequenced (s := s.withHost (offer bs)) hp hrc (resetFirst_offer bs)
    rwa [State.sequenced_withHost, State.withHost_withHost, State.withHost_host, dropWait_offer] at h
  exact ⟨s.sequenced.withHost [], hstep [], rfl, hstep bytes⟩

/-! ## Responses (R58) -/

/-- A SEED outside INITIALIZING begins the initialization without a response, or is answered an error (R125, R126). -/
theorem execSeed_response {key iv : List Byte} {s t : State} (hp : s.phase ≠ .initializing)
    (h : execSeed key iv s = .next t) :
    (t.phase = .initializing ∧ t.responses = s.responses) ∨
      ∃ st, st ≠ Status.ok ∧ t.responses = s.responses ++ [⟨st, []⟩] := by
  obtain ⟨hi, _⟩ | ⟨_, rfl⟩ | ⟨_, _, rfl⟩ | ⟨_, _, _, rfl⟩ | ⟨_, _, _, rfl⟩ := execSeed_cases h
  · exact absurd hi hp
  · exact .inr ⟨.errAlreadySeeded, nofun, rfl⟩
  · exact .inr ⟨.errKeySize, nofun, rfl⟩
  · exact .inr ⟨.errIvSize, nofun, rfl⟩
  · exact .inl ⟨rfl, rfl⟩

/-- A NEXT outside INITIALIZING is answered once, with one word if it succeeds (R135). -/
theorem execNext_response {s t : State} (hp : s.phase ≠ .initializing) (h : execNext s = .next t) :
    ∃ r : Response, t.responses = s.responses ++ [r] ∧ r.words.length = if r.status = .ok then 1 else 0 := by
  obtain ⟨hi, _⟩ | ⟨_, rfl⟩ | ⟨_, rfl⟩ := execNext_cases h
  · exact absurd hi hp
  · exact ⟨⟨.errNotReady, []⟩, rfl, rfl⟩
  · exact ⟨⟨.ok, [s.keyWord]⟩, rfl, rfl⟩

/-- A FILL outside INITIALIZING is answered once, with n words if it succeeds (R138). -/
theorem execFill_response {n : BitVec 32} {s t : State} (hp : s.phase ≠ .initializing)
    (h : execFill n s = .next t) :
    ∃ r : Response, t.responses = s.responses ++ [r] ∧ r.words.length = if r.status = .ok then n.toNat else 0 := by
  obtain ⟨hi, _⟩ | ⟨_, rfl⟩ | ⟨_, rfl⟩ := execFill_cases h
  · exact absurd hi hp
  · exact ⟨⟨.errNotReady, []⟩, rfl, rfl⟩
  · obtain ⟨_, _, _, hresp, _, _⟩ := State.workRounds_frame s n.toNat
    exact ⟨⟨.ok, s.keyWords n.toNat⟩, by rw [State.respond_responses, hresp], State.keyWords_length s n.toNat⟩

/-- An illegal opcode outside INITIALIZING is answered one error (R156). -/
theorem execIllegal_response {opcode : Byte} {s t : State} (hp : s.phase ≠ .initializing)
    (h : execIllegal opcode s = .next t) : ∃ st, st ≠ Status.ok ∧ t.responses = s.responses ++ [⟨st, []⟩] := by
  obtain ⟨hi, _⟩ | ⟨_, rfl⟩ := execIllegal_cases h
  · exact absurd hi hp
  · exact ⟨.errIllegalOpcode, nofun, rfl⟩

/-- Settles O35, operation by operation. -/
theorem eachPacketHasOneResponse : Obligations.EachPacketHasOneResponse := by
  intro i s t hp h
  cases i with
  | seed key iv => exact execSeed_response (hp rfl) h
  | next => exact execNext_response (hp rfl) h
  | fill n => exact execFill_response (hp rfl) h
  | illegal opcode => exact execIllegal_response (hp rfl) h
  | initRound r =>
    obtain ⟨_, _, rfl⟩ := execInitRound_cases h
    exact State.countedRound_responses s
  | finish =>
    obtain ⟨_, _, rfl⟩ := execFinish_cases h
    exact State.finishingRound_responses s

/-! ## Scripts (R63, R64) -/

/-- A line and a script that assemble, assemble one after the other. -/
theorem assembleScript_cons {line : ScriptLine} {rest : List ScriptLine} {events more : List HostEvent}
    (hl : line.assemble = some events) (hr : assembleScript rest = some more) :
    assembleScript (line :: rest) = some (events ++ more) := by
  simp only [assembleScript, hl, hr]

/-- A script of one line is that line. -/
theorem assembleScript_singleton (line : ScriptLine) : assembleScript [line] = line.assemble := by
  cases h : line.assemble with
  | none => simp only [assembleScript, h]
  | some events => rw [assembleScript_cons h rfl, List.append_nil]

theorem assembleScript_replicate_next (n : Nat) :
    assembleScript (List.replicate n .next) = some (List.replicate n (offerInstr .next)).flatten := by
  induction n with
  | zero => rfl
  | succ n ih =>
    rw [List.replicate_succ, assembleScript_cons rfl ih, List.replicate_succ, List.flatten_cons]

/-- RESET always assembles, so the script is refused exactly when what follows is. -/
theorem assembleScript_reset (rest : List ScriptLine) :
    assembleScript (.reset :: rest) = (assembleScript rest).map (.rst :: ·) := by
  have hreset : ScriptLine.reset.assemble = some [.rst] := rfl
  cases h : assembleScript rest with
  | none => simp only [assembleScript, hreset, h, Option.map_none]
  | some more => exact assembleScript_cons hreset h

/-- Settles O49: SEED128 and SEED256 by definition, NEXT * n by induction on n, RESTART as two lines. -/
theorem scriptPseudoCommandsExpand : Obligations.ScriptPseudoCommandsExpand := by
  intro key iv n
  refine ⟨rfl, rfl, ?_, ?_⟩
  · exact (assembleScript_replicate_next n).symm
  · rw [assembleScript_reset, assembleScript_singleton]
    rfl

end Sys2Proof.Machine
end

section
/-! PROOF. Field arithmetic (spec/40_field_arithmetic.md R70 to R73): ROT31 bit by bit, and ADD31, ROT31 and FEEDBACK as
arithmetic modulo P = 2^31-1. -/

namespace Sys2Proof.Machine

/-! ## ROT31 as a bit permutation (R70) -/

/-- ROT31 is a rotation, for every k (log 15). -/
theorem rot31_getLsbD (x : Cell) (k : Nat) {i : Nat} (hi : i < 31) :
    (rot31 x k).getLsbD ((i + k) % 31) = x.getLsbD i := by
  have hk : k % 31 < 31 := Nat.mod_lt k (by decide)
  rw [rot31, BitVec.getLsbD_rotateLeft]
  by_cases hwrap : (i + k) % 31 < k % 31
  · have hbit : 31 - k % 31 + (i + k) % 31 = i := by omega
    simp [hwrap, hbit]
  · have hbit : (i + k) % 31 - k % 31 = i := by omega
    have hlt : (i + k) % 31 < 31 := Nat.mod_lt _ (by decide)
    simp [hwrap, hbit, hlt]

/-- A cell is determined by its bits in rotated order. -/
theorem cell_ext_rotated {x y : Cell} (k : Nat)
    (h : ∀ i < 31, x.getLsbD ((i + k) % 31) = y.getLsbD ((i + k) % 31)) : x = y := by
  refine BitVec.eq_of_getLsbD_eq fun j hj => ?_
  have hsrc : ((j + (31 - k % 31)) % 31 + k) % 31 = j := by omega
  have hb := h ((j + (31 - k % 31)) % 31) (Nat.mod_lt _ (by decide))
  rwa [hsrc] at hb

@[simp] theorem rot31_zero_amount (x : Cell) : rot31 x 0 = x :=
  cell_ext_rotated 0 fun i hi => by rw [rot31_getLsbD x 0 hi, Nat.add_zero, Nat.mod_eq_of_lt hi]

theorem rot31_mod_amount (x : Cell) (k : Nat) : rot31 x (k % 31) = rot31 x k := BitVec.rotateLeft_mod_eq_rotateLeft

/-- Rotations compose by adding their amounts (R73 (c)): bit i goes to i + j and on to i + j + k. -/
theorem rot31_rot31 (x : Cell) (j k : Nat) : rot31 (rot31 x j) k = rot31 x (j + k) := by
  refine cell_ext_rotated (j + k) fun i hi => ?_
  have htwice : ((i + j) % 31 + k) % 31 = (i + (j + k)) % 31 := by omega
  calc (rot31 (rot31 x j) k).getLsbD ((i + (j + k)) % 31)
      = (rot31 x j).getLsbD ((i + j) % 31) := by rw [← htwice, rot31_getLsbD _ k (Nat.mod_lt _ (by decide))]
    _ = x.getLsbD i := rot31_getLsbD x j hi
    _ = (rot31 x (j + k)).getLsbD ((i + (j + k)) % 31) := (rot31_getLsbD x (j + k) hi).symm

/-- The rotation by 31 - k goes back. -/
theorem rot31_bijective {k : Nat} (hk : k < 31) : Function.Bijective (fun x : Cell => rot31 x k) := by
  have hturn (x : Cell) : rot31 x 31 = x := (rot31_mod_amount x 31).symm.trans (rot31_zero_amount x)
  refine Function.bijective_iff_has_inverse.mpr ⟨fun x => rot31 x (31 - k), fun x => ?_, fun x => ?_⟩
  · show rot31 (rot31 x k) (31 - k) = x
    rw [rot31_rot31, Nat.add_sub_cancel' hk.le, hturn]
  · show rot31 (rot31 x (31 - k)) k = x
    rw [rot31_rot31, Nat.sub_add_cancel hk.le, hturn]

@[simp] theorem rot31_zero (k : Nat) : rot31 0#31 k = 0#31 :=
  cell_ext_rotated k fun i hi => by rw [rot31_getLsbD _ k hi, BitVec.getLsbD_zero, BitVec.getLsbD_zero]

@[simp] theorem rot31_prime (k : Nat) : rot31 0x7FFFFFFF#31 k = 0x7FFFFFFF#31 := by
  have hbit (i : Nat) (hi : i < 31) : (0x7FFFFFFF#31).getLsbD i = true :=
    (BitVec.getLsbD_allOnes (v := 31)).trans (decide_eq_true hi)
  exact cell_ext_rotated k fun i hi => by
    rw [rot31_getLsbD _ k hi, hbit i hi, hbit _ (Nat.mod_lt _ (by decide))]

/-- The bits of the rotated cell, read from bit k on, are the bits of the cell. -/
theorem bits_rot31_rotate (x : Cell) (k : Nat) :
    ((List.range 31).map (rot31 x k).getLsbD).rotate k = (List.range 31).map x.getLsbD := by
  refine List.ext_getElem (by simp) fun i _ hi => ?_
  simp only [List.length_map, List.length_range] at hi
  simp [List.getElem_rotate, rot31_getLsbD x k hi]

theorem count_bits_rot31 (x : Cell) (k : Nat) :
    ((List.range 31).map (rot31 x k).getLsbD).count true = ((List.range 31).map x.getLsbD).count true := by
  rw [← bits_rot31_rotate x k]
  exact ((List.rotate_perm _ k).count_eq true).symm

/-- The shift form of R70, on 32-bit values. -/
theorem rot31_shift_form (x : Cell) {k : Nat} (hk : k < 31) : (rot31 x k).setWidth 32 =
    ((x.setWidth 32 <<< k) ||| (x.setWidth 32 >>> (31 - k))) &&& 0x7FFFFFFF#32 := by
  have hmask (i : Nat) : (0x7FFFFFFF#32).getLsbD i = decide (i < 31) := by
    show Nat.testBit (2 ^ 31 - 1) i = decide (i < 31)
    exact Nat.testBit_two_pow_sub_one 31 i
  refine BitVec.eq_of_getLsbD_eq fun i hi => ?_
  rw [BitVec.getLsbD_and, hmask, rot31, BitVec.rotateLeft_def, Nat.mod_eq_of_lt hk]
  by_cases hi31 : i < 31
  · simp [hi31, hi, BitVec.getLsbD_eq_getElem (x := x) (show i - k < 31 by omega)]
  · have hout : x.getLsbD (31 - k + i) = false := BitVec.getLsbD_of_ge x _ (by omega)
    simp [hi31, hout]

/-- Settles O10: all of R70 follows from where each bit goes. -/
theorem rot31MovesEveryBit : Obligations.Rot31MovesEveryBit := fun k _ hk =>
  ⟨fun x _ hi => rot31_getLsbD x k hi, fun x => rot31_shift_form x hk, rot31_zero k, rot31_prime k,
    rot31_bijective hk, fun x => count_bits_rot31 x k⟩

/-! ## Folding at bit 31, and residues modulo 2^31-1 -/

/-- The bits of n from bit 31 on added to its low 31 bits: what R71 does to a sum and ROT31 does to a product by 2^k. -/
def fold31 (n : Nat) : Nat := n % 2 ^ 31 + n / 2 ^ 31

/-- Folding keeps the residue, because 2^31 is 1 modulo 2^31-1. -/
theorem fold31_modEq (n : Nat) : fold31 n ≡ n [MOD 2147483647] := by
  unfold fold31 Nat.ModEq
  omega

@[simp] theorem fold31_eq_zero {n : Nat} : fold31 n = 0 ↔ n = 0 := by
  unfold fold31
  omega

theorem cell_ne_zero_iff {x : Cell} : x ≠ 0#31 ↔ x.toNat ≠ 0 := by
  rw [Ne, ← BitVec.toNat_inj, BitVec.toNat_zero]

theorem cell_prime_toNat : (0x7FFFFFFF#31).toNat = 2147483647 := rfl

theorem cell_le_prime (x : Cell) : x.toNat ≤ 2147483647 := Nat.le_of_lt_succ x.isLt

/-- A cell that is not 0 is determined by its residue (R72 (c)). -/
theorem cell_eq_of_modEq {x y : Cell} (hx : x ≠ 0#31) (hy : y ≠ 0#31) (h : x.toNat ≡ y.toNat [MOD 2147483647]) :
    x = y := by
  rw [cell_ne_zero_iff] at hx hy
  have hx31 := cell_le_prime x
  have hy31 := cell_le_prime y
  unfold Nat.ModEq at h
  exact BitVec.eq_of_toNat_eq (by omega)

/-! ## ADD31 (R71, R72) -/

/-- R71: two cells sum to less than 2^32, so the raw sum loses nothing and its fold fits in 31 bits. -/
theorem add31_toNat (x y : Cell) : (add31 x y).toNat = fold31 (x.toNat + y.toNat) := by
  have hx := x.isLt
  have hy := y.isLt
  have hsum : (x.toNat + y.toNat) % 2 ^ 32 = x.toNat + y.toNat := Nat.mod_eq_of_lt (by omega)
  have hcarry : (x.toNat + y.toNat) / 2 ^ 31 < 2 ^ 1 := by omega
  have hfit : fold31 (x.toNat + y.toNat) < 2 ^ 31 := by
    unfold fold31
    omega
  simp only [add31, BitVec.toNat_add, BitVec.extractLsb'_toNat, BitVec.toNat_setWidth, Nat.mod_add_mod,
    Nat.add_mod_mod, hsum, Nat.shiftRight_eq_div_pow, Nat.pow_zero, Nat.div_one, Nat.mod_eq_of_lt hcarry]
  rw [← Nat.mod_add_mod]
  exact Nat.mod_eq_of_lt hfit

theorem add31_eq_zero_iff {x y : Cell} : add31 x y = 0#31 ↔ x = 0#31 ∧ y = 0#31 := by
  simp only [← BitVec.toNat_inj, BitVec.toNat_zero, add31_toNat, fold31_eq_zero, Nat.add_eq_zero_iff]

/-- ADD31 adds residues (R72 (b)). -/
theorem add31_modEq {x y : Cell} {a b : Nat} (hx : x.toNat ≡ a [MOD 2147483647])
    (hy : y.toNat ≡ b [MOD 2147483647]) : (add31 x y).toNat ≡ a + b [MOD 2147483647] := by
  rw [add31_toNat]
  exact (fold31_modEq _).trans (hx.add hy)

/-- The sum is the only cell but 0 with its residue (R72 (c)). -/
theorem eq_add31_of_modEq {x y z : Cell} (hxy : x ≠ 0#31 ∨ y ≠ 0#31) (hz : z ≠ 0#31)
    (h : z.toNat ≡ x.toNat + y.toNat [MOD 2147483647]) : z = add31 x y := by
  have hsum : add31 x y ≠ 0#31 := by
    rw [Ne, add31_eq_zero_iff]
    tauto
  exact cell_eq_of_modEq hz hsum (h.trans (add31_modEq rfl rfl).symm)

theorem add31_comm (x y : Cell) : add31 x y = add31 y x := by
  rw [← BitVec.toNat_inj, add31_toNat, add31_toNat, Nat.add_comm]

@[simp] theorem add31_zero (x : Cell) : add31 x 0#31 = x := by
  have hx := x.isLt
  rw [← BitVec.toNat_inj, add31_toNat, BitVec.toNat_zero, fold31]
  omega

@[simp] theorem zero_add31 (x : Cell) : add31 0#31 x = x := (add31_comm _ _).trans (add31_zero x)

/-- 2^31-1 is 0 modulo 2^31-1, so it is neutral for the cells but 0 (R72 (g)). -/
theorem add31_prime {x : Cell} (hx : x ≠ 0#31) : add31 x 0x7FFFFFFF#31 = x :=
  (eq_add31_of_modEq (.inl hx) hx (by rw [cell_prime_toNat]; exact (Nat.add_mod_right _ _).symm)).symm

/-- The negative of x is 2^31-1-x (R72 (d)). -/
theorem add31_neg (x : Cell) : add31 x (0x7FFFFFFF#31 - x) = 0x7FFFFFFF#31 := by
  rw [← BitVec.toNat_inj, add31_toNat, BitVec.toNat_sub_of_le (BitVec.le_def.mpr (cell_le_prime x)), cell_prime_toNat,
    Nat.add_sub_cancel' (cell_le_prime x)]
  rfl

/-- Both sides have the residue of x + y + z, and only for three zeros they are 0 (R72 (f)). -/
theorem add31_assoc (x y z : Cell) : add31 (add31 x y) z = add31 x (add31 y z) := by
  by_cases h0 : x = 0#31
  · rw [h0, zero_add31, zero_add31]
  · refine eq_add31_of_modEq (.inl h0) (fun h => h0 (add31_eq_zero_iff.mp (add31_eq_zero_iff.mp h).1).1) ?_
    calc (add31 (add31 x y) z).toNat
        ≡ x.toNat + y.toNat + z.toNat [MOD 2147483647] := add31_modEq (add31_modEq rfl rfl) rfl
      _ = x.toNat + (y.toNat + z.toNat) := Nat.add_assoc _ _ _
      _ ≡ x.toNat + (add31 y z).toNat [MOD 2147483647] := (Nat.ModEq.add_left _ (add31_modEq rfl rfl)).symm

/-- Settles O11: R71 is the fold of the sum, and the laws of R72 follow from its residue. -/
theorem add31IsFieldAddition : Obligations.Add31IsFieldAddition := fun x y z =>
  ⟨add31_toNat x y, cell_le_prime _, add31_modEq rfl rfl, add31_eq_zero_iff, eq_add31_of_modEq,
    fun _ => add31_neg x, add31_comm x y, add31_assoc x y z, add31_zero x, add31_prime, zero_add31 _⟩

/-! ## ROT31 as a product, and the feedback (R73) -/

/-- The bits that leave at the top come in below, which is where folding adds them. -/
theorem rot31_toNat (x : Cell) {k : Nat} (hk : k < 31) : (rot31 x k).toNat = fold31 (x.toNat * 2 ^ k) := by
  have hw : 2 ^ 31 = 2 ^ (31 - k) * 2 ^ k := by rw [← Nat.pow_add, Nat.sub_add_cancel hk.le]
  have hin : x.toNat / 2 ^ (31 - k) < 2 ^ k := Nat.div_lt_of_lt_mul (hw ▸ x.isLt)
  rw [rot31, BitVec.toNat_rotateLeft, Nat.mod_eq_of_lt hk, Nat.shiftLeft_eq, Nat.shiftRight_eq_div_pow, fold31, hw,
    Nat.mul_mod_mul_right, Nat.mul_div_mul_right _ _ (Nat.two_pow_pos k), Nat.mul_comm _ (2 ^ k),
    Nat.two_pow_add_eq_or_of_lt hin]

/-- The rotation multiplies the residue by 2^k (R73 (a)). -/
theorem rot31_modEq (x : Cell) {k : Nat} (hk : k < 31) :
    (rot31 x k).toNat ≡ x.toNat * 2 ^ k [MOD 2147483647] := by
  rw [rot31_toNat x hk]
  exact fold31_modEq _

/-- A bijection that fixes 0 sends nothing else to 0 (R73 (b)). -/
theorem rot31_eq_zero_iff {x : Cell} {k : Nat} (hk : k < 31) : rot31 x k = 0#31 ↔ x = 0#31 := by
  conv_lhs => rw [← rot31_zero k]
  exact (rot31_bijective hk).injective.eq_iff

/-- Below 2^31-1 the rotation is the remainder itself, because only 2^31-1 is rotated to 2^31-1 (R73 (a)). -/
theorem rot31_toNat_of_lt {x : Cell} {k : Nat} (hk : k < 31) (hx : x.toNat < 2147483647) :
    (rot31 x k).toNat = x.toNat * 2 ^ k % 2147483647 := by
  have hne : (rot31 x k).toNat ≠ 2147483647 := by
    intro h
    have hrot : rot31 x k = rot31 0x7FFFFFFF#31 k := BitVec.eq_of_toNat_eq (by rw [h, rot31_prime]; rfl)
    have hP : x = 0x7FFFFFFF#31 := (rot31_bijective hk).injective hrot
    subst hP
    exact absurd hx (by decide)
  rw [← rot31_modEq x hk, Nat.mod_eq_of_lt (Nat.lt_of_le_of_ne (cell_le_prime _) hne)]

/-- The replacement of 0 by 2^31-1 keeps the residue. -/
theorem feedback_modEq_feedbackSum (l : Lfsr) (inj : Cell) :
    (feedback l inj).toNat ≡ (feedbackSum l inj).toNat [MOD 2147483647] := by
  unfold feedback
  split
  next h =>
    rw [h]
    rfl
  · rfl

/-- The sum of the seven terms, residue by residue. -/
theorem feedbackSum_modEq (l : Lfsr) (inj : Cell) :
    (feedbackSum l inj).toNat ≡ (1 + 2 ^ 8) * l[0].toNat + 2 ^ 20 * l[4].toNat + 2 ^ 21 * l[10].toNat +
      2 ^ 17 * l[13].toNat + 2 ^ 15 * l[15].toNat + inj.toNat [MOD 2147483647] := by
  have hrot (x : Cell) (k : Nat) (hk : k < 31) : (rot31 x k).toNat ≡ 2 ^ k * x.toNat [MOD 2147483647] :=
    Nat.mul_comm (2 ^ k) _ ▸ rot31_modEq x hk
  rw [Nat.add_mul, Nat.one_mul]
  exact add31_modEq (add31_modEq (add31_modEq (add31_modEq (add31_modEq (add31_modEq rfl
    (hrot _ 8 (by decide))) (hrot _ 20 (by decide))) (hrot _ 21 (by decide))) (hrot _ 17 (by decide)))
    (hrot _ 15 (by decide))) rfl

/-- Settles O12. When j + k is 0 modulo 31, the composed rotation is the one by 0. -/
theorem rot31MultipliesByPowersOfTwo : Obligations.Rot31MultipliesByPowersOfTwo := by
  refine ⟨fun x k _ hk => ⟨rot31_modEq x hk, rot31_toNat_of_lt hk, rot31_prime k, rot31_eq_zero_iff hk⟩, ?_,
    fun l inj => (feedback_modEq_feedbackSum l inj).trans (feedbackSum_modEq l inj)⟩
  intro x j k _ _ _ _
  rw [rot31_rot31, ← rot31_mod_amount]
  split
  next h => rw [h, rot31_zero_amount]
  · rfl

end Sys2Proof.Machine
end

section
/-! PROOF. Bit reconstruction (spec/41_bit_reconstruction.md R80): the two halves of a cell as masks and shifts, and the
words that they make. -/

namespace Sys2Proof.Machine

/-! ## The halves of a cell as masks and shifts (R7, R80) -/

theorem low16Cell_eq_mask (c : Cell) : (low16Cell c).setWidth 32 = c.setWidth 32 &&& 0xFFFF#32 := by
  have hlow : (c.toNat >>> 0) % 2 ^ 16 % 2 ^ 32 = c.toNat % 2 ^ 32 % 2 ^ 16 := by
    rw [Nat.shiftRight_zero]
    omega
  refine BitVec.eq_of_toNat_eq ?_
  calc ((low16Cell c).setWidth 32).toNat
      = c.toNat % 2 ^ 32 % 2 ^ 16 := by rw [BitVec.toNat_setWidth, low16Cell, BitVec.extractLsb'_toNat, hlow]
    _ = c.toNat % 2 ^ 32 &&& 2 ^ 16 - 1 := (Nat.and_two_pow_sub_one_eq_mod _ 16).symm
    _ = (c.setWidth 32 &&& 0xFFFF#32).toNat := by
      rw [BitVec.toNat_and, BitVec.toNat_setWidth]
      rfl

/-- A cell has no bits above its high half, so the shift needs no mask. -/
theorem high16Cell_eq_shift (c : Cell) : (high16Cell c).setWidth 32 = c.setWidth 32 >>> 15 := by
  have hc : c.toNat < 2 ^ 31 := c.isLt
  refine BitVec.eq_of_toNat_eq ?_
  simp only [high16Cell, BitVec.toNat_setWidth, BitVec.extractLsb'_toNat, BitVec.toNat_ushiftRight,
    Nat.shiftRight_eq_div_pow]
  omega

/-- Shifting right by 15 and left by 16 drops the low 15 bits and moves the rest up by one. Bit 31 leaves at the top, so
the mask of R80 need not keep it. -/
theorem ushiftRight_shiftLeft_eq_mask (x : Word) : x >>> 15 <<< 16 = (x &&& 0x7FFF8000#32) <<< 1 := by
  have hmask : (BitVec.allOnes 32 <<< 15) <<< 1 = 0x7FFF8000#32 <<< 1 := by decide
  calc x >>> 15 <<< 16
      = x >>> 15 <<< 15 <<< 1 := BitVec.shiftLeft_add _ 15 1
    _ = (x &&& BitVec.allOnes 32 <<< 15) <<< 1 := by rw [BitVec.shiftLeft_ushiftRight]
    _ = (x &&& 0x7FFF8000#32) <<< 1 := by rw [BitVec.shiftLeft_and_distrib, hmask, ← BitVec.shiftLeft_and_distrib]

/-! ## The words of bit reconstruction (R80) -/

theorem halves_append_eq_or (a b : BitVec 16) : a ++ b = a.setWidth 32 <<< 16 ||| b.setWidth 32 :=
  (BitVec.setWidth_eq (a ++ b)).symm.trans BitVec.setWidth_append_eq_shiftLeft_setWidth_or

/-- The form of X0: a high half above a low half. -/
theorem high16Cell_append_low16Cell (c d : Cell) : high16Cell c ++ low16Cell d =
    (c.setWidth 32 &&& 0x7FFF8000#32) <<< 1 ||| (d.setWidth 32 &&& 0xFFFF#32) := by
  rw [halves_append_eq_or, high16Cell_eq_shift, low16Cell_eq_mask, ushiftRight_shiftLeft_eq_mask]

/-- The form of X1, X2 and X3: a low half above a high half. -/
theorem low16Cell_append_high16Cell (c d : Cell) : low16Cell c ++ high16Cell d =
    (c.setWidth 32 &&& 0xFFFF#32) <<< 16 ||| (d.setWidth 32 >>> 15) := by
  rw [halves_append_eq_or, low16Cell_eq_mask, high16Cell_eq_shift]

/-- Settles O15: X0 puts H16 on top, the other three words L16. -/
theorem bitReconstructionByMasks : Obligations.BitReconstructionByMasks := fun _ =>
  ⟨high16Cell_append_low16Cell _ _, low16Cell_append_high16Cell _ _, low16Cell_append_high16Cell _ _,
    low16Cell_append_high16Cell _ _⟩

end Sys2Proof.Machine
end

section
/-! PROOF. The nonlinear function F (spec/42_nonlinear_F.md R85 to R93): the mixers as exclusive-ors of an odd number of
rotations, the tables by their constructions, SUB as a bijection, and the exchange of halves by shifts. -/

namespace Sys2Proof.Machine

/-! ## Rotations of a word (R7) -/

theorem rotateLeft_eq_shifts (x : Word) {k : Nat} (hk : k < 32) :
    x.rotateLeft k = (x <<< k) ||| (x >>> (32 - k)) := by
  rw [BitVec.rotateLeft_def, Nat.mod_eq_of_lt hk]

/-- The bit of x that a rotation brings to place i. -/
theorem getLsbD_rotateLeft_source (x : Word) (k : Nat) {i : Nat} (hi : i < 32) :
    (x.rotateLeft k).getLsbD i = x.getLsbD ((i + (32 - k % 32)) % 32) := by
  rw [BitVec.getLsbD_rotateLeft]
  by_cases hwrap : i < k % 32
  · have hbit : (i + (32 - k % 32)) % 32 = 32 - k % 32 + i := by omega
    simp [hwrap, hbit]
  · have hbit : (i + (32 - k % 32)) % 32 = i - k % 32 := by omega
    simp [hwrap, hbit, hi]

theorem rotateLeft_xor (x y : Word) (k : Nat) : (x ^^^ y).rotateLeft k = x.rotateLeft k ^^^ y.rotateLeft k :=
  BitVec.eq_of_getLsbD_eq fun i hi => by simp only [getLsbD_rotateLeft_source _ k hi, BitVec.getLsbD_xor]

theorem rotateLeft_rotateLeft (x : Word) (j k : Nat) : (x.rotateLeft j).rotateLeft k = x.rotateLeft (j + k) :=
  BitVec.eq_of_getLsbD_eq fun i hi => by
    have hsource : ((i + (32 - k % 32)) % 32 + (32 - j % 32)) % 32 = (i + (32 - (j + k) % 32)) % 32 := by omega
    rw [getLsbD_rotateLeft_source _ k hi, getLsbD_rotateLeft_source _ j (Nat.mod_lt _ (by decide)), hsource,
      getLsbD_rotateLeft_source _ (j + k) hi]

theorem zero_rotateLeft (k : Nat) : (0#32).rotateLeft k = 0#32 :=
  BitVec.eq_of_getLsbD_eq fun i hi => by
    rw [getLsbD_rotateLeft_source _ k hi, BitVec.getLsbD_zero, BitVec.getLsbD_zero]

theorem rotateLeft_whole_turns (x : Word) (n : Nat) : x.rotateLeft (32 * n) = x :=
  BitVec.eq_of_getLsbD_eq fun i hi => by
    have hsource : (i + (32 - 32 * n % 32)) % 32 = i := by omega
    rw [getLsbD_rotateLeft_source _ _ hi, hsource]

/-! ## Exclusive-ors of rotations

Both mixers are of this form. Applying such a map twice doubles its amounts, because the mixed terms cancel in pairs;
after five doublings every rotation is by whole turns. -/

/-- The exclusive-or of the rotations of x by the amounts in the list. -/
def rotXor : List Nat → Word → Word
  | [], _ => 0#32
  | k :: ks, x => x.rotateLeft k ^^^ rotXor ks x

theorem rotXor_xor (ks : List Nat) (x y : Word) : rotXor ks (x ^^^ y) = rotXor ks x ^^^ rotXor ks y := by
  induction ks with
  | nil => exact BitVec.xor_self.symm
  | cons k ks ih =>
    simp only [rotXor, rotateLeft_xor, ih]
    ac_rfl

theorem rotXor_rotateLeft (ks : List Nat) (x : Word) (j : Nat) :
    rotXor ks (x.rotateLeft j) = (rotXor ks x).rotateLeft j := by
  induction ks with
  | nil => exact (zero_rotateLeft j).symm
  | cons k ks ih => simp only [rotXor, rotateLeft_xor, ih, rotateLeft_rotateLeft, Nat.add_comm]

theorem rotXor_rotXor (ks : List Nat) (x : Word) : rotXor ks (rotXor ks x) = rotXor (ks.map (2 * ·)) x := by
  induction ks with
  | nil => rfl
  | cons k ks ih =>
    calc rotXor (k :: ks) (rotXor (k :: ks) x)
        = (x.rotateLeft (k + k) ^^^ (rotXor ks x).rotateLeft k) ^^^
            ((rotXor ks x).rotateLeft k ^^^ rotXor ks (rotXor ks x)) := by
          simp only [rotXor, rotateLeft_xor, rotXor_xor, rotXor_rotateLeft, rotateLeft_rotateLeft]
      _ = x.rotateLeft (2 * k) ^^^ rotXor (ks.map (2 * ·)) x := by
          rw [ih, ← Nat.two_mul, BitVec.xor_assoc, ← BitVec.xor_assoc ((rotXor ks x).rotateLeft k), BitVec.xor_self,
            BitVec.zero_xor]

theorem rotXor_iterate (ks : List Nat) (n : Nat) : (rotXor ks)^[2 ^ n] = rotXor (ks.map (2 ^ n * ·)) := by
  induction n with
  | zero => simp
  | succ n ih =>
    funext x
    have hdouble (k : Nat) : 2 * (2 ^ n * k) = 2 ^ (n + 1) * k := by rw [← Nat.mul_assoc, ← Nat.pow_succ']
    calc (rotXor ks)^[2 ^ (n + 1)] x
        = (rotXor ks)^[2 ^ n] ((rotXor ks)^[2 ^ n] x) := by rw [Nat.pow_succ, Nat.mul_two, Function.iterate_add_apply]
      _ = rotXor ((ks.map (2 ^ n * ·)).map (2 * ·)) x := by rw [ih, rotXor_rotXor]
      _ = rotXor (ks.map (2 ^ (n + 1) * ·)) x := by simp only [List.map_map, Function.comp_def, hdouble]

theorem rotXor_whole_turns (ks : List Nat) (x : Word) :
    rotXor (ks.map (32 * ·)) x = if Odd ks.length then x else 0#32 := by
  induction ks with
  | nil => rfl
  | cons k ks ih =>
    simp only [List.map_cons, rotXor, ih, rotateLeft_whole_turns, List.length_cons, Nat.odd_add_one]
    by_cases hodd : Odd ks.length
    · simp [hodd]
    · simp [hodd]

/-- An odd number of rotations makes a map whose 32nd iterate is the identity. -/
theorem rotXor_bijective {ks : List Nat} (hodd : Odd ks.length) : Function.Bijective (rotXor ks) := by
  have hperiod (x : Word) : (rotXor ks)^[32] x = x :=
    calc (rotXor ks)^[2 ^ 5] x
        = rotXor (ks.map (32 * ·)) x := congrFun (rotXor_iterate ks 5) x
      _ = x := by rw [rotXor_whole_turns, if_pos hodd]
  exact Function.bijective_iff_has_inverse.mpr
    ⟨(rotXor ks)^[31], hperiod, fun x => (Function.iterate_succ_apply' (rotXor ks) 31 x).symm.trans (hperiod x)⟩

/-! ## The mixers (R85, R86) -/

theorem mixL1_eq_rotXor : mixL1 = rotXor [0, 2, 10, 18, 24] := by
  funext x
  have h0 : x.rotateLeft 0 = x := rotateLeft_whole_turns x 0
  simp only [mixL1, rotXor, h0, BitVec.xor_zero, BitVec.xor_assoc]

theorem mixL2_eq_rotXor : mixL2 = rotXor [0, 8, 14, 22, 30] := by
  funext x
  have h0 : x.rotateLeft 0 = x := rotateLeft_whole_turns x 0
  simp only [mixL2, rotXor, h0, BitVec.xor_zero, BitVec.xor_assoc]

/-- Settles O16: both mixers exclusive-or five rotations, counting the one by 0, and five is odd. -/
theorem mixersAreLinearBijections : Obligations.MixersAreLinearBijections := by
  refine ⟨fun x => ?_, fun x => ?_, fun a b => ⟨?_, ?_⟩, rfl, rfl, rfl, rfl, ?_, ?_⟩
  · simp only [mixL1, rotateLeft_eq_shifts, Nat.reduceLT]
  · simp only [mixL2, rotateLeft_eq_shifts, Nat.reduceLT]
  · rw [mixL1_eq_rotXor, rotXor_xor]
  · rw [mixL2_eq_rotXor, rotXor_xor]
  · rw [mixL1_eq_rotXor]
    exact rotXor_bijective (by decide)
  · rw [mixL2_eq_rotXor]
    exact rotXor_bijective (by decide)

/-! ## The construction of S0 (R88)

Three steps, each of which exclusive-ors into one half of the byte a value that only the other half selects, and so is
its own inverse; then a rotation by 5. -/

/-- A byte from its high and its low half. -/
def joinHalves (h : BitVec 4 × BitVec 4) : Byte := h.1 ++ h.2

theorem joinHalves_bijective : Function.Bijective joinHalves :=
  Function.bijective_iff_has_inverse.mpr ⟨fun b => (b.extractLsb' 4 4, b.extractLsb' 0 4),
    fun _ => Prod.ext BitVec.extractLsb'_append_eq_left BitVec.extractLsb'_append_eq_right,
    fun _ => (BitVec.extractLsb'_append_extractLsb'_eq_extractLsb' rfl).trans BitVec.extractLsb'_eq_self⟩

/-- A step on the high half. -/
def mixHigh (p : BitVec 4 → BitVec 4) (h : BitVec 4 × BitVec 4) : BitVec 4 × BitVec 4 := (h.1 ^^^ p h.2, h.2)

/-- A step on the low half. -/
def mixLow (p : BitVec 4 → BitVec 4) (h : BitVec 4 × BitVec 4) : BitVec 4 × BitVec 4 := (h.1, h.2 ^^^ p h.1)

theorem mixHigh_involutive (p : BitVec 4 → BitVec 4) : Function.Involutive (mixHigh p) := fun h => by simp [mixHigh]

theorem mixLow_involutive (p : BitVec 4 → BitVec 4) : Function.Involutive (mixLow p) := fun h => by simp [mixLow]

/-- The table P1 of R88. -/
def tableP1 (i : BitVec 4) : BitVec 4 := [9#4, 15, 0, 14, 15, 15, 2, 10, 0, 4, 0, 12, 7, 5, 3, 9].getD i.toNat 0
/-- The table P2 of R88. -/
def tableP2 (i : BitVec 4) : BitVec 4 := [8#4, 13, 6, 5, 7, 0, 12, 4, 11, 1, 14, 10, 15, 3, 9, 2].getD i.toNat 0
/-- The table P3 of R88. -/
def tableP3 (i : BitVec 4) : BitVec 4 := [2#4, 6, 10, 6, 0, 13, 10, 15, 3, 3, 13, 5, 0, 9, 12, 13].getD i.toNat 0

/-- The three steps of R88, from (a, c) to (a2, c1). -/
def networkS0 : BitVec 4 × BitVec 4 → BitVec 4 × BitVec 4 := mixHigh tableP3 ∘ mixLow tableP2 ∘ mixHigh tableP1

theorem networkS0_bijective : Function.Bijective networkS0 :=
  (mixHigh_involutive _).bijective.comp ((mixLow_involutive _).bijective.comp (mixHigh_involutive _).bijective)

/-- The check of the 256 entries of S0. -/
theorem sbox0_joinHalves (h : BitVec 4 × BitVec 4) :
    sbox0 (joinHalves h) = (joinHalves (networkS0 h)).rotateLeft 5 := by
  have hentries : ∀ a c : BitVec 4, sbox0 (joinHalves (a, c)) = (joinHalves (networkS0 (a, c))).rotateLeft 5 := by
    decide +kernel
  exact hentries h.1 h.2

theorem byte_rotateLeft_five_bijective : Function.Bijective fun b : Byte => b.rotateLeft 5 := by
  have hback : ∀ b : Byte, (b.rotateLeft 3).rotateLeft 5 = b := by decide +kernel
  exact Finite.surjective_iff_bijective.mp fun b => ⟨b.rotateLeft 3, hback b⟩

theorem sbox0_bijective : Function.Bijective sbox0 := by
  have hnetwork : sbox0 ∘ joinHalves = (fun b : Byte => b.rotateLeft 5) ∘ joinHalves ∘ networkS0 :=
    funext sbox0_joinHalves
  rw [← Function.Bijective.of_comp_iff sbox0 joinHalves_bijective, hnetwork]
  exact byte_rotateLeft_five_bijective.comp (joinHalves_bijective.comp networkS0_bijective)

/-! ## The construction of S1 (R89) -/

/-- The product by x in GF(2^8) modulo x^8 + x^7 + x^3 + x + 1. -/
def fieldDouble (a : Byte) : Byte := if a.msb then (a <<< 1) ^^^ 0x8B#8 else a <<< 1

/-- The product in GF(2^8) modulo x^8 + x^7 + x^3 + x + 1. -/
def fieldMul (a b : Byte) : Byte :=
  (List.range 8).foldr (fun i acc => fieldDouble acc ^^^ if b.getLsbD i then a else 0#8) 0#8

/-- The linear map with the given columns: bit i of y selects column i. -/
def xorSelected (columns : List Byte) (y : Byte) : Byte :=
  (List.range 8).foldr (fun i acc => acc ^^^ if y.getLsbD i then columns.getD i 0 else 0#8) 0#8

/-- The map M of R89. -/
def linearS1 : Byte → Byte := xorSelected [0x97#8, 0x3E, 0x6D, 0xCB, 0xEE, 0xDD, 0xBB, 0x77]

/-- The columns of the inverse matrix of M. -/
def unlinearS1 : Byte → Byte := xorSelected [0x9E#8, 0x3D, 0x6B, 0xC7, 0x7E, 0xED, 0xDB, 0xB7]

theorem linearS1_unlinearS1 : ∀ y : Byte, linearS1 (unlinearS1 y) = y := by decide +kernel

theorem linearS1_bijective : Function.Bijective linearS1 :=
  Finite.surjective_iff_bijective.mp fun y => ⟨unlinearS1 y, linearS1_unlinearS1 y⟩

/-- R89 solved for the inverse: the only byte that M and 0x55 take to the entry of S1. That it is the inverse of b is
`fieldMul_inverseFromS1`. -/
def inverseFromS1 (b : Byte) : Byte := unlinearS1 (sbox1 b ^^^ 0x55#8)

theorem sbox1_eq_linearS1 (b : Byte) : sbox1 b = linearS1 (inverseFromS1 b) ^^^ 0x55#8 := by
  rw [inverseFromS1, linearS1_unlinearS1, BitVec.xor_assoc, BitVec.xor_self, BitVec.xor_zero]

/-- The check of the 255 entries of S1 that hold an inverse. -/
theorem fieldMul_inverseFromS1 : ∀ b : Byte, b ≠ 0#8 → fieldMul b (inverseFromS1 b) = 1#8 := by decide +kernel

theorem inverseFromS1_spec (b : Byte) :
    if b = 0#8 then inverseFromS1 b = 0#8 else fieldMul b (inverseFromS1 b) = 1#8 := by
  by_cases hb : b = 0#8
  · rw [if_pos hb, hb]
    decide
  · rw [if_neg hb]
    exact fieldMul_inverseFromS1 b hb

/-- An element is the inverse of its inverse, and 0 stands for its own. -/
theorem inverseFromS1_involutive : Function.Involutive inverseFromS1 := by
  unfold Function.Involutive
  decide +kernel

theorem sbox1_bijective : Function.Bijective sbox1 := by
  have hmask : Function.Involutive fun y : Byte => y ^^^ 0x55#8 := fun y => by simp
  have haffine : sbox1 = (fun y : Byte => y ^^^ 0x55#8) ∘ linearS1 ∘ inverseFromS1 := funext sbox1_eq_linearS1
  rw [haffine]
  exact hmask.bijective.comp (linearS1_bijective.comp inverseFromS1_involutive.bijective)

/-- Settles O18: both constructions give every entry. -/
theorem tablesHaveTheirConstructions : Obligations.TablesHaveTheirConstructions :=
  ⟨fun a c => sbox0_joinHalves (a, c), fun b => ⟨inverseFromS1 b, inverseFromS1_spec b, sbox1_eq_linearS1 b⟩⟩

/-! ## The substitution (R90) -/

theorem bytes_of_append (b3 b2 b1 b0 : Byte) :
    (b3 ++ b2 ++ b1 ++ b0).extractLsb' 24 8 = b3 ∧ (b3 ++ b2 ++ b1 ++ b0).extractLsb' 16 8 = b2 ∧
    (b3 ++ b2 ++ b1 ++ b0).extractLsb' 8 8 = b1 ∧ (b3 ++ b2 ++ b1 ++ b0).extractLsb' 0 8 = b0 := by
  simpa only [encode, List.cons.injEq, true_and, and_true] using encode_fill_of_bytes b3 b2 b1 b0

/-- FILL's encoding tells the four bytes of a word apart. -/
theorem bytes_eq_of_append_eq {b3 b2 b1 b0 c3 c2 c1 c0 : Byte}
    (h : b3 ++ b2 ++ b1 ++ b0 = c3 ++ c2 ++ c1 ++ c0) : b3 = c3 ∧ b2 = c2 ∧ b1 = c1 ∧ b0 = c0 := by
  have hencoded : encode (.fill (b3 ++ b2 ++ b1 ++ b0)) = encode (.fill (c3 ++ c2 ++ c1 ++ c0)) := by rw [h]
  simpa only [encode_fill_of_bytes, List.cons.injEq, true_and, and_true] using hencoded

theorem substitute_append (b3 b2 b1 b0 : Byte) :
    substitute (b3 ++ b2 ++ b1 ++ b0) = sbox0 b3 ++ sbox1 b2 ++ sbox0 b1 ++ sbox1 b0 := by
  obtain ⟨h3, h2, h1, h0⟩ := bytes_of_append b3 b2 b1 b0
  rw [substitute, h3, h2, h1, h0]

/-- Equal results have equal bytes, and each byte comes through a permutation. -/
theorem substitute_bijective : Function.Bijective substitute := by
  refine Finite.injective_iff_bijective.mp fun x y h => ?_
  obtain ⟨h3, h2, h1, h0⟩ := bytes_eq_of_append_eq h
  rw [← bytes_of_word x, ← bytes_of_word y, sbox0_bijective.injective h3, sbox1_bijective.injective h2,
    sbox0_bijective.injective h1, sbox1_bijective.injective h0]

/-- Settles O17: SUB is a bijection because both tables are. -/
theorem substitutionIsABijection : Obligations.SubstitutionIsABijection :=
  ⟨substitute_append, by decide +kernel, by decide +kernel, sbox0_bijective, sbox1_bijective, substitute_bijective⟩

/-! ## F (R91 to R93) -/

/-- The exchange of halves (R91): what one shift empties is where the other puts its half. -/
theorem low16_append_high16 (w v : Word) : low16 w ++ high16 v = w <<< 16 ||| v >>> 16 := by
  have hlow : w <<< 16 = low16 w ++ 0#16 := BitVec.shiftLeft_eq_concat_of_lt (by decide)
  have hhigh : v >>> 16 = 0#16 ++ high16 v := BitVec.ushiftRight_eq_extractLsb'_of_lt (by decide)
  rw [hlow, hhigh, BitVec.or_append, BitVec.or_zero, BitVec.zero_or]

/-- Settles O19: F is the rule's pseudocode, but for the exchange of halves. -/
theorem nonlinearFunctionByShifts : Obligations.NonlinearFunctionByShifts := fun r1 r2 _ x1 x2 =>
  ⟨rfl, congrArg (substitute ∘ mixL1) (low16_append_high16 (r1 + x1) (r2 ^^^ x2)),
    congrArg (substitute ∘ mixL2) (low16_append_high16 (r2 ^^^ x2) (r1 + x1))⟩

end Sys2Proof.Machine
end

section
/-! PROOF. The advance (spec/43_lfsr_advance.md R100, R101): which cell the feedback value is, when its sum is 0, and where
the advance puts the cells. -/

namespace Sys2Proof.Machine

/-! ## The feedback value (R100) -/

/-- Being nonzero and its residue determine a nonzero cell, read both ways (R72 (c)). -/
theorem cell_eq_iff_ne_zero_and_modEq {v w : Cell} (hw : w ≠ 0#31) :
    v = w ↔ v ≠ 0#31 ∧ v.toNat ≡ w.toNat [MOD 2147483647] := by
  constructor
  · rintro rfl
    exact ⟨hw, rfl⟩
  · rintro ⟨hv, hmod⟩
    exact cell_eq_of_modEq hv hw hmod

/-- The weighted sum of R100 (d), where lfsr[0] is tapped plain and rotated by 8. -/
theorem feedback_modEq_weightedTaps (l : Lfsr) (inj : Cell) :
    (feedback l inj).toNat ≡ 257 * l[0].toNat + 2 ^ 20 * l[4].toNat + 2 ^ 21 * l[10].toNat +
      2 ^ 17 * l[13].toNat + 2 ^ 15 * l[15].toNat + inj.toNat [MOD 2147483647] :=
  (feedback_modEq_feedbackSum l inj).trans (feedbackSum_modEq l inj)

/-- No addition and no rotation makes 0 of anything but zeros (R100 (a)). -/
theorem feedbackSum_eq_zero_iff (l : Lfsr) (inj : Cell) :
    feedbackSum l inj = 0#31 ↔
      l[0] = 0#31 ∧ l[4] = 0#31 ∧ l[10] = 0#31 ∧ l[13] = 0#31 ∧ l[15] = 0#31 ∧ inj = 0#31 := by
  simp only [feedbackSum, add31_eq_zero_iff, rot31_eq_zero_iff (show 8 < 31 by decide),
    rot31_eq_zero_iff (show 20 < 31 by decide), rot31_eq_zero_iff (show 21 < 31 by decide),
    rot31_eq_zero_iff (show 17 < 31 by decide), rot31_eq_zero_iff (show 15 < 31 by decide), and_self, and_assoc]

/-- Settles O13: the feedback is never 0, so its residue determines it. -/
theorem feedbackIsTheNonzeroRepresentative : Obligations.FeedbackIsTheNonzeroRepresentative := by
  refine fun l inj v => ⟨?_, feedbackSum_eq_zero_iff l inj⟩
  rw [cell_eq_iff_ne_zero_and_modEq (feedback_ne_zero l inj), Nat.ModEq, feedback_modEq_weightedTaps l inj]

/-! ## The shift (R101) -/

/-- Settles O14: the advance is a shift by the feedback of the old cells. -/
theorem advanceShiftsAndInserts : Obligations.AdvanceShiftsAndInserts := fun l inj =>
  ⟨shift_below l (feedback l inj), shift_last l (feedback l inj)⟩

end Sys2Proof.Machine
end

section
/-! PROOF. The scheduler (spec/44_key_iv_schedule.md R112, R115, R116): the fields of a cell, the IV slices, and the bytes
of key and IV that LOAD128 and LOAD256 put into the cells. -/

namespace Sys2Proof.Machine

/-! ## Fields beside each other and or-ed together, as numbers -/

theorem append_toNat_eq_add {m n : Nat} (x : BitVec m) (y : BitVec n) :
    (x ++ y).toNat = x.toNat * 2 ^ n + y.toNat := by
  rw [BitVec.toNat_append, Nat.shiftLeft_eq, Nat.mul_comm, Nat.two_pow_add_eq_or_of_lt y.isLt]

/-- What is or-ed below the lowest one of a constant field is added to it (R116). -/
theorem field_or_toNat {n : Nat} (hn : n ≤ 7) {f : BitVec 7} (hf : 2 ^ n ∣ f.toNat) (x : BitVec n) :
    (f ||| x.setWidth 7).toNat = f.toNat + x.toNat := by
  obtain ⟨high, hhigh⟩ := hf
  rw [BitVec.toNat_or, BitVec.toNat_setWidth_of_le hn, hhigh, Nat.two_pow_add_eq_or_of_lt x.isLt]

/-- The bits of a byte from bit k up. -/
theorem topBits_toNat (b : Byte) {k n : Nat} (h : k + n = 8) : (b.extractLsb' k n).toNat = b.toNat / 2 ^ k := by
  have hlt : b.toNat / 2 ^ k < 2 ^ n := by
    rw [Nat.div_lt_iff_lt_mul (Nat.two_pow_pos k), ← Nat.pow_add, Nat.add_comm n k, h]
    exact b.isLt
  rw [BitVec.extractLsb'_toNat, Nat.shiftRight_eq_div_pow, Nat.mod_eq_of_lt hlt]

theorem lowBits_toNat (b : Byte) (n : Nat) : (b.extractLsb' 0 n).toNat = b.toNat % 2 ^ n :=
  BitVec.extractLsb'_toNat 0 n b

/-- A slice that begins in the low bits of one byte and ends in the top bits of the next. -/
theorem straddlingBits_toNat (b c : Byte) (m : Nat) {k n : Nat} (h : k + n = 8) :
    (b.extractLsb' 0 m ++ c.extractLsb' k n).toNat = b.toNat % 2 ^ m * 2 ^ n + c.toNat / 2 ^ k := by
  rw [append_toNat_eq_add, lowBits_toNat, topBits_toNat c h]

/-! ## The bytes of an operand (R31, R32) -/

theorem byteAt_eq_getElem {bytes : List Byte} {i : Nat} (hi : i < bytes.length) : byteAt bytes i = bytes[i] :=
  List.getD_eq_getElem _ _ hi

theorem eq_of_byteAt_eq {n : Nat} {xs ys : List Byte} (hx : xs.length = n) (hy : ys.length = n)
    (h : ∀ i < n, byteAt xs i = byteAt ys i) : xs = ys := by
  refine List.ext_getElem (hx.trans hy.symm) fun i hxi hyi => ?_
  rw [← byteAt_eq_getElem hxi, ← byteAt_eq_getElem hyi]
  exact h i (hx ▸ hxi)

/-! ## LOAD128 (R112) -/

@[simp] theorem cell128_key (key : Byte) (constant : BitVec 15) (iv : Byte) :
    (cell128 key constant iv).extractLsb' 23 8 = key :=
  (BitVec.extractLsb'_append_eq_of_le (by decide)).trans BitVec.extractLsb'_append_eq_left

@[simp] theorem cell128_constant (key : Byte) (constant : BitVec 15) (iv : Byte) :
    (cell128 key constant iv).extractLsb' 8 15 = constant :=
  (BitVec.extractLsb'_append_eq_of_le (by decide)).trans BitVec.extractLsb'_append_eq_right

@[simp] theorem cell128_iv (key : Byte) (constant : BitVec 15) (iv : Byte) :
    (cell128 key constant iv).extractLsb' 0 8 = iv :=
  BitVec.extractLsb'_append_eq_right

theorem cell128_ne_prime {constant : BitVec 15} (h : constant ≠ 0x7FFF#15) (key iv : Byte) :
    cell128 key constant iv ≠ 0x7FFFFFFF#31 :=
  ne_of_apply_ne (BitVec.extractLsb' 8 15) (by rwa [cell128_constant])

theorem const128_ne_ones : ∀ i : Fin 16, const128[i] ≠ 0x7FFF#15 := by decide

theorem load128_getElem (key iv : List Byte) (i : Fin 16) :
    (load128 key iv)[i] = cell128 (byteAt key i) const128[i] (byteAt iv i) := by
  simp [load128]

theorem byteAt_eq_of_load128_eq {key iv key' iv' : List Byte} (h : load128 key iv = load128 key' iv') (i : Fin 16) :
    byteAt key i = byteAt key' i ∧ byteAt iv i = byteAt iv' i := by
  have hcell : cell128 (byteAt key i) const128[i] (byteAt iv i) =
      cell128 (byteAt key' i) const128[i] (byteAt iv' i) := by rw [← load128_getElem, h, load128_getElem]
  exact ⟨by simpa using congrArg (BitVec.extractLsb' 23 8) hcell,
    by simpa using congrArg (BitVec.extractLsb' 0 8) hcell⟩

/-- Settles O20: the fields of a cell give back the bytes, and no constant is all zeros or all ones. -/
theorem load128PlacesEveryByte : Obligations.Load128PlacesEveryByte := by
  refine ⟨fun key iv i => ?_, fun key iv key' iv' hkey hiv hkey' hiv' h => ⟨?_, ?_⟩⟩
  · have hzero := load128_nonzero key iv i
    rw [load128_getElem] at hzero ⊢
    exact ⟨cell128_key _ _ _, cell128_constant _ _ _, cell128_iv _ _ _, hzero,
      cell128_ne_prime (const128_ne_ones i) _ _⟩
  · exact eq_of_byteAt_eq hkey hkey' fun i hi => (byteAt_eq_of_load128_eq h ⟨i, hi⟩).1
  · exact eq_of_byteAt_eq hiv hiv' fun i hi => (byteAt_eq_of_load128_eq h ⟨i, hi⟩).2

/-! ## The IV slices (R115) -/

/-- The slices as quotients and remainders of the six bytes. -/
theorem ivSlices_toNat (iv : List Byte) :
    let n := fun i => (byteAt iv i).toNat
    let s := ivSlices iv
    s[0].toNat = n 17 / 4 ∧ s[1].toNat = n 17 % 4 * 16 + n 18 / 16 ∧
    s[2].toNat = n 18 % 16 * 4 + n 19 / 64 ∧ s[3].toNat = n 19 % 64 ∧
    s[4].toNat = n 20 / 4 ∧ s[5].toNat = n 20 % 4 * 16 + n 21 / 16 ∧
    s[6].toNat = n 21 % 16 * 4 + n 22 / 64 ∧ s[7].toNat = n 22 % 64 := by
  intro n s
  exact ⟨topBits_toNat _ rfl, straddlingBits_toNat _ _ 2 rfl, straddlingBits_toNat _ _ 4 rfl, lowBits_toNat _ 6,
    topBits_toNat _ rfl, straddlingBits_toNat _ _ 2 rfl, straddlingBits_toNat _ _ 4 rfl, lowBits_toNat _ 6⟩

/-- Settles O21: both sides are the same number. -/
theorem ivSlicesCutTheLastSixBytes : Obligations.IvSlicesCutTheLastSixBytes := by
  intro iv s
  obtain ⟨h0, h1, h2, h3, h4, h5, h6, h7⟩ := ivSlices_toNat iv
  apply BitVec.eq_of_toNat_eq
  simp only [append_toNat_eq_add, s, h0, h1, h2, h3, h4, h5, h6, h7]
  omega

/-! ## LOAD256 (R113, R116) -/

@[simp] theorem cell256_a (a : Byte) (b : BitVec 7) (c d : Byte) : (cell256 a b c d).extractLsb' 23 8 = a := by
  rw [cell256, BitVec.extractLsb'_append_eq_of_le (by decide), BitVec.extractLsb'_append_eq_of_le (by decide)]
  exact BitVec.extractLsb'_append_eq_left

@[simp] theorem cell256_b (a : Byte) (b : BitVec 7) (c d : Byte) : (cell256 a b c d).extractLsb' 16 7 = b := by
  rw [cell256, BitVec.extractLsb'_append_eq_of_le (by decide), BitVec.extractLsb'_append_eq_of_le (by decide)]
  exact BitVec.extractLsb'_append_eq_right

@[simp] theorem cell256_c (a : Byte) (b : BitVec 7) (c d : Byte) : (cell256 a b c d).extractLsb' 8 8 = c := by
  rw [cell256, BitVec.extractLsb'_append_eq_of_le (by decide)]
  exact BitVec.extractLsb'_append_eq_right

@[simp] theorem cell256_d (a : Byte) (b : BitVec 7) (c d : Byte) : (cell256 a b c d).extractLsb' 0 8 = d :=
  BitVec.extractLsb'_append_eq_right

theorem cell256_ne_prime {b : BitVec 7} (h : b ≠ 0x7F#7) (a c d : Byte) : cell256 a b c d ≠ 0x7FFFFFFF#31 :=
  ne_of_apply_ne (BitVec.extractLsb' 16 7) (by rwa [cell256_b])

theorem load256_a_column (key iv : List Byte) :
    let k := byteAt key
    let v := byteAt iv
    (load256 key iv).toList.map (fun c => c.extractLsb' 23 8) =
      [k 0, k 1, k 2, k 3, k 4, v 0, v 1, v 10, k 8, k 9, v 5, k 11, k 12, k 13, k 14, k 15] := by
  simp [load256]

theorem load256_c_column (key iv : List Byte) :
    let k := byteAt key
    let v := byteAt iv
    (load256 key iv).toList.map (fun c => c.extractLsb' 8 8) =
      [k 21, k 22, k 23, k 24, k 25, k 5, k 6, k 7, v 3, v 12, k 10, v 6, v 7, v 15, v 16, k 30] := by
  simp [load256]

theorem load256_d_column (key iv : List Byte) :
    let k := byteAt key
    let v := byteAt iv
    (load256 key iv).toList.map (fun c => c.extractLsb' 0 8) =
      [k 16, k 17, k 18, k 19, k 20, k 26, k 27, v 2, v 11, v 4, k 28, v 13, v 14, v 8, v 9, k 29] := by
  simp [load256]

theorem field256_or_slice_toNat {i : Fin 16} (h5 : 5 ≤ i.val) (h12 : i.val ≤ 12) (slice : BitVec 6) :
    (field256 i ||| slice.setWidth 7).toNat = 0x40 + slice.toNat := by
  have hfield : ∀ i : Fin 16, 5 ≤ i.val → i.val ≤ 12 → (field256 i).toNat = 0x40 := by decide
  have h40 := hfield i h5 h12
  rw [field_or_toNat (by decide) (by rw [h40]; decide), h40]

/-- The two halves of key[31] in cells 14 and 15. -/
theorem field256_or_nibble_toNat {i : Fin 16} (h14 : 14 ≤ i.val) (nibble : BitVec 4) :
    (field256 i ||| nibble.setWidth 7).toNat = (field256 i).toNat + nibble.toNat := by
  have hfield : ∀ i : Fin 16, 14 ≤ i.val → 2 ^ 4 ∣ (field256 i).toNat := by decide
  exact field_or_toNat (by decide) (hfield i h14) nibble

theorem load256_b_column (key iv : List Byte) :
    let k := byteAt key
    let n := fun i => (byteAt iv i).toNat
    (load256 key iv).toList.map (fun c => (c.extractLsb' 16 7).toNat) =
      [0x22, 0x2F, 0x24, 0x2A, 0x6D,
        0x40 + n 17 / 4, 0x40 + (n 17 % 4 * 16 + n 18 / 16), 0x40 + (n 18 % 16 * 4 + n 19 / 64), 0x40 + n 19 % 64,
        0x40 + n 20 / 4, 0x40 + (n 20 % 4 * 16 + n 21 / 16), 0x40 + (n 21 % 16 * 4 + n 22 / 64), 0x40 + n 22 % 64,
        0x52, 0x10 + (k 31).toNat / 16, 0x30 + (k 31).toNat % 16] := by
  intro k n
  obtain ⟨h0, h1, h2, h3, h4, h5, h6, h7⟩ := ivSlices_toNat iv
  have hhigh : ((byteAt key 31).extractLsb' 4 4).toNat = (k 31).toNat / 16 := topBits_toNat _ rfl
  have hlow : ((byteAt key 31).extractLsb' 0 4).toNat = (k 31).toNat % 16 := lowBits_toNat _ 4
  simp (disch := decide) only [load256, Vector.toList_mk, List.map_cons, List.map_nil, cell256_b,
    field256_or_slice_toNat, field256_or_nibble_toNat, h0, h1, h2, h3, h4, h5, h6, h7, hhigh, hlow]
  rfl

theorem load256_ne_prime (key iv : List Byte) (i : Fin 16) (hi : i.val ≤ 4 ∨ 13 ≤ i.val) :
    (load256 key iv)[i] ≠ 0x7FFFFFFF#31 := by
  have hplain : ∀ i : Fin 16, field256 i ≠ 0x7F#7 := by decide
  have hnibble : ∀ (i : Fin 16) (nibble : BitVec 4), 14 ≤ i.val →
      field256 i ||| nibble.setWidth 7 ≠ 0x7F#7 := by decide
  match i with
  | 0 | 1 | 2 | 3 | 4 | 13 => exact cell256_ne_prime (hplain _) _ _ _
  | 14 | 15 => exact cell256_ne_prime (hnibble _ _ (by decide)) _ _ _
  | 5 | 6 | 7 | 8 | 9 | 10 | 11 | 12 => exact absurd hi (by decide)
  | ⟨n + 16, hi⟩ => omega

/-- The operand bytes that stand whole in a cell, key[i] as `.inl i` and iv[i] as `.inr i`: the fields a, c and d of the
table of R116, in the order of the cells. -/
def wholeByteSources : List (Nat ⊕ Nat) :=
  [.inl 0, .inl 1, .inl 2, .inl 3, .inl 4, .inr 0, .inr 1, .inr 10,
    .inl 8, .inl 9, .inr 5, .inl 11, .inl 12, .inl 13, .inl 14, .inl 15,
    .inl 21, .inl 22, .inl 23, .inl 24, .inl 25, .inl 5, .inl 6, .inl 7,
    .inr 3, .inr 12, .inl 10, .inr 6, .inr 7, .inr 15, .inr 16, .inl 30,
    .inl 16, .inl 17, .inl 18, .inl 19, .inl 20, .inl 26, .inl 27, .inr 2,
    .inr 11, .inr 4, .inl 28, .inr 13, .inr 14, .inr 8, .inr 9, .inl 29]

theorem load256_wholeBytes (key iv : List Byte) :
    (load256 key iv).toList.map (fun c => c.extractLsb' 23 8) ++
      (load256 key iv).toList.map (fun c => c.extractLsb' 8 8) ++
      (load256 key iv).toList.map (fun c => c.extractLsb' 0 8) =
    wholeByteSources.map (Sum.elim (byteAt key) (byteAt iv)) := by
  rw [load256_a_column, load256_c_column, load256_d_column]
  rfl

/-- What is left for the constant fields is key[31] and iv[17] .. iv[22]. -/
theorem mem_wholeByteSources :
    (∀ i < 31, .inl i ∈ wholeByteSources) ∧ ∀ i < 17, .inr i ∈ wholeByteSources := by
  have hkey : ∀ i < 31, ∃ j < 48, wholeByteSources[j]? = some (.inl i) := by decide
  have hiv : ∀ i < 17, ∃ j < 48, wholeByteSources[j]? = some (.inr i) := by decide
  constructor
  · intro i hi
    obtain ⟨j, -, hj⟩ := hkey i hi
    exact List.mem_of_getElem? hj
  · intro i hi
    obtain ⟨j, -, hj⟩ := hiv i hi
    exact List.mem_of_getElem? hj

section
variable {key iv key' iv' : List Byte} (h : load256 key iv = load256 key' iv')
include h

theorem wholeBytes_eq_of_load256_eq :
    (∀ i < 31, byteAt key i = byteAt key' i) ∧ ∀ i < 17, byteAt iv i = byteAt iv' i := by
  have hmap := load256_wholeBytes key iv
  rw [h, load256_wholeBytes, List.map_inj_left] at hmap
  obtain ⟨hkey, hiv⟩ := mem_wholeByteSources
  exact ⟨fun i hi => (hmap _ (hkey i hi)).symm, fun i hi => (hmap _ (hiv i hi)).symm⟩

/-- The bytes that are cut over the constant fields: the last six of the IV and the last of the key. -/
theorem cutBytes_eq_of_load256_eq :
    byteAt key 31 = byteAt key' 31 ∧ ∀ i, 17 ≤ i → i < 23 → byteAt iv i = byteAt iv' i := by
  have hcolumn := load256_b_column key iv
  rw [h, load256_b_column] at hcolumn
  simp only [List.cons.injEq, and_true, true_and, Nat.add_left_cancel_iff] at hcolumn
  obtain ⟨h5, h6, h7, h8, h9, h10, h11, h12, h14, h15⟩ := hcolumn
  refine ⟨BitVec.eq_of_toNat_eq (by omega), fun i hge hlt => BitVec.eq_of_toNat_eq ?_⟩
  interval_cases i <;> omega

end

/-- Settles O22: each field is a column of the table, and the columns hold every byte. -/
theorem load256PlacesEveryByte : Obligations.Load256PlacesEveryByte := by
  refine ⟨fun key iv => ⟨load256_a_column key iv, load256_b_column key iv, load256_c_column key iv,
    load256_d_column key iv⟩, fun key iv i => ⟨load256_nonzero key iv i, load256_ne_prime key iv i⟩, by decide,
    fun key iv key' iv' hkey hiv hkey' hiv' h => ?_⟩
  obtain ⟨hwholeKey, hwholeIv⟩ := wholeBytes_eq_of_load256_eq h
  obtain ⟨hlast, hcutIv⟩ := cutBytes_eq_of_load256_eq h
  refine ⟨eq_of_byteAt_eq hkey hkey' fun i hi => ?_, eq_of_byteAt_eq hiv hiv' fun i hi => ?_⟩
  · obtain hlt | rfl : i < 31 ∨ i = 31 := by omega
    · exact hwholeKey i hlt
    · exact hlast
  · obtain hlt | hge := Nat.lt_or_ge i 17
    · exact hwholeIv i hlt
    · exact hcutIv i hge hi

end Sys2Proof.Machine
end

section
/-! PROOF. The generator's commands and its state machine (spec/45_generator_commands.md R125 to R142): what each
operation answers, FILL as NEXTs in a row, when a step stops, the phase's transitions, and the initialization. -/

namespace Sys2Proof.Machine

/-! ## The checks of SEED (R125) -/

theorem keyLengthOk_eq_false_iff {klen : Nat} : keyLengthOk klen = false ↔ klen ≠ 16 ∧ klen ≠ 32 := by
  simp [keyLengthOk]

/-- The IV length is wrong for its variant, once the key length has been accepted. -/
theorem ivLengthOk_eq_false_iff {klen ivlen : Nat} (hk : keyLengthOk klen = true) :
    ivLengthOk klen ivlen = false ↔ (klen = 16 ∧ ivlen ≠ 16) ∨ (klen = 32 ∧ ivlen ≠ 23) := by
  obtain rfl | rfl : klen = 16 ∨ klen = 32 := by simpa [keyLengthOk] using hk
  · simp [ivLengthOk]
  · simp [ivLengthOk]

/-- Settles O23, one check after the other; the IV length is looked at only behind an accepted key length. -/
theorem seedChecksInOrder : Obligations.SeedChecksInOrder := by
  intro key iv s hp
  rw [exec, execSeed, State.takeCommand_of_idle hp]
  refine ite_congr rfl (fun _ => rfl) fun _ => ?_
  refine ite_congr (by simp [keyLengthOk_eq_false_iff]) (fun _ => rfl) fun hk => ?_
  have hkey : keyLengthOk key.length = true := by
    rw [← Bool.not_eq_false, keyLengthOk_eq_false_iff]
    exact hk
  exact ite_congr (by simp [ivLengthOk_eq_false_iff hkey]) (fun _ => rfl) fun _ => rfl

/-- In UNSEEDED a SEED of valid lengths passes every check. -/
theorem exec_seed_accepted {key iv : List Byte} {s : State} (hp : s.phase = .unseeded) (hl : SeedLengthsValid key iv) :
    exec (.seed key iv) s = .next (s.load (schedule key iv)) := by
  rw [seedChecksInOrder key iv s (by simp [hp]), if_neg (by simp [hp])]
  obtain ⟨hk, hi⟩ | ⟨hk, hi⟩ := hl
  · rw [if_neg (by simp [hk]), if_neg (by simp [hk, hi])]
  · rw [if_neg (by simp [hk]), if_neg (by simp [hk, hi])]

/-- Settles O24: what `State.load` writes is what the statement writes. -/
theorem seedLoadsTheGenerator : Obligations.SeedLoadsTheGenerator := fun _ _ _ hp hl => exec_seed_accepted hp hl

/-! ## The sequencer's operations (R129, R130, R132) -/

/-- Outside INITIALIZING the word selects nothing (R62). -/
theorem decodeSequencer_of_idle {s : State} (hp : s.phase ≠ .initializing) :
    decodeSequencer s.sequencerWord = .error .noSequencerOperation := by
  have hnone : ∀ c : BitVec 6,
      decodeSequencer (Phase.unseeded.code ++ c) = .error .noSequencerOperation ∧
        decodeSequencer (Phase.ready.code ++ c) = .error .noSequencerOperation := by decide
  obtain ⟨hunseeded, hready⟩ := hnone s.rc
  rw [State.sequencerWord]
  cases h : s.phase with
  | unseeded => exact hunseeded
  | initializing => exact absurd h hp
  | ready => exact hready

/-- Settles O6: in INITIALIZING the three ranges of rc, elsewhere no operation. -/
theorem sequencerChoosesByPhaseAndCounter : Obligations.SequencerChoosesByPhaseAndCounter := by
  intro s
  rw [decode]
  by_cases hp : s.phase = .initializing
  · obtain ⟨hrc, hd, _⟩ | ⟨hrc, hd⟩ | ⟨hrc, hd⟩ := decodeSequencer_state hp
    · rw [hd, if_pos ⟨hp, by omega⟩]
    · rw [hd, if_neg (by simp [hrc]), if_pos ⟨hp, by simp [hrc]⟩]
    · rw [hd, if_neg (by omega), if_neg (by omega)]
  · rw [decodeSequencer_of_idle hp, if_neg (fun h => hp h.1), if_neg (fun h => hp h.1)]

/-- Settles O25: the precondition holds, and `State.countedRound` makes the writes of the statement. -/
theorem initRoundFeedsBackTheWord : Obligations.InitRoundFeedsBackTheWord := fun _ _ hp hrc => if_pos ⟨hp, hrc⟩

/-- Settles O26: the precondition holds, and `State.finishingRound` makes the writes of the statement. -/
theorem finishEntersReady : Obligations.FinishEntersReady := fun _ hp hrc => if_pos ⟨hp, hrc⟩

/-! ## NEXT and FILL (R135, R138, R139) -/

theorem exec_next_ready {s : State} (hp : s.phase = .ready) :
    exec .next s = .next ((s.round .work).respond .ok [s.keyWord]) := by
  rw [exec, execNext, State.takeCommand_of_idle (by simp [hp]), if_neg (by simp [hp])]

theorem exec_fill_ready {s : State} (hp : s.phase = .ready) (n : BitVec 32) :
    exec (.fill n) s = .next ((s.workRounds n.toNat).respond .ok (s.keyWords n.toNat)) := by
  rw [exec, execFill, State.takeCommand_of_idle (by simp [hp]), if_neg (by simp [hp])]

theorem exec_next_unseeded {s : State} (hp : s.phase = .unseeded) :
    exec .next s = .next (s.respond .errNotReady []) := by
  rw [exec, execNext, State.takeCommand_of_idle (by simp [hp]), if_pos (by simp [hp]), State.raise_eq]

theorem exec_fill_unseeded {s : State} (hp : s.phase = .unseeded) (n : BitVec 32) :
    exec (.fill n) s = .next (s.respond .errNotReady []) := by
  rw [exec, execFill, State.takeCommand_of_idle (by simp [hp]), if_pos (by simp [hp]), State.raise_eq]

/-- Settles O27. -/
theorem nextGivesOneWord : Obligations.NextGivesOneWord :=
  ⟨fun _ hp => exec_next_ready hp, fun _ hp => exec_next_unseeded hp⟩

/-- Rounds do not read the list of responses. -/
theorem State.workRounds_withResponses (s : State) (rs : List Response) (n : Nat) :
    { s with responses := rs }.workRounds n = { s.workRounds n with responses := rs } := by
  induction n generalizing s with
  | zero => rfl
  | succ n ih => exact ih (s.round .work)

/-- The words do not depend on the list of responses. -/
theorem State.keyWords_withResponses (s : State) (rs : List Response) (n : Nat) :
    { s with responses := rs }.keyWords n = s.keyWords n := by
  induction n generalizing s with
  | zero => rfl
  | succ n ih => exact congrArg (s.keyWord :: ·) (ih (s.round .work))

theorem State.workRounds_add (s : State) (a b : Nat) : s.workRounds (a + b) = (s.workRounds a).workRounds b := by
  induction a generalizing s with
  | zero => rw [Nat.zero_add, State.workRounds_zero]
  | succ a ih => rw [Nat.add_right_comm, State.workRounds_succ, State.workRounds_succ, ih]

theorem State.keyWords_add (s : State) (a b : Nat) :
    s.keyWords (a + b) = s.keyWords a ++ (s.workRounds a).keyWords b := by
  induction a generalizing s with
  | zero => rw [Nat.zero_add, State.keyWords_zero, State.workRounds_zero, List.nil_append]
  | succ a ih =>
    rw [Nat.add_right_comm, State.keyWords_succ, ih, State.keyWords_succ, State.workRounds_succ, List.cons_append]

/-- n NEXTs in READY make n work-mode rounds, and each word has a response of its own. -/
theorem repeatExec_next {s : State} (hp : s.phase = .ready) (n : Nat) :
    repeatExec .next n s =
      .next { s.workRounds n with responses := s.responses ++ (s.keyWords n).map fun z => ⟨.ok, [z]⟩ } := by
  induction n generalizing s with
  | zero => simp [repeatExec]
  | succ n ih =>
    let u := (s.round .work).respond .ok [s.keyWord]
    have hrounds : u.workRounds n = { (s.round .work).workRounds n with responses := u.responses } :=
      State.workRounds_withResponses (s.round .work) u.responses n
    have hwords : u.keyWords n = (s.round .work).keyWords n :=
      State.keyWords_withResponses (s.round .work) u.responses n
    calc repeatExec .next (n + 1) s
        = repeatExec .next n u := by rw [repeatExec, exec_next_ready hp]
      _ = .next { u.workRounds n with responses := u.responses ++ (u.keyWords n).map fun z => ⟨.ok, [z]⟩ } := ih hp
      _ = _ := by
        rw [hrounds, hwords, State.workRounds_succ, State.keyWords_succ, List.map_cons, List.append_cons]
        rfl

/-- Settles O28: FILL n and n NEXTs both make the n rounds and give their words. -/
theorem fillIsRepeatedNext : Obligations.FillIsRepeatedNext := by
  refine ⟨fun n s hp => ?_, fun n s hp => exec_fill_unseeded hp n⟩
  obtain ⟨hphase, hrc, hhost, hresp, hresets, hstopped⟩ := State.workRounds_frame s n.toNat
  refine ⟨s.keyWords n.toNat, s.workRounds n.toNat, State.keyWords_length s n.toNat, hphase.trans hp, hrc, hhost,
    hresets, hstopped, ?_, repeatExec_next hp n.toNat⟩
  rw [exec_fill_ready hp, State.respond, hresp]

/-- Settles O29: rounds and words split at a, and the response between the two FILLs is not read. -/
theorem fillSplits : Obligations.FillSplits := by
  intro a b s hp hab
  let t := (s.workRounds a.toNat).respond .ok (s.keyWords a.toNat)
  obtain ⟨hphase, _, _, hresp, _, _⟩ := State.workRounds_frame s a.toNat
  have htphase : t.phase = .ready := hphase.trans hp
  have hrounds : t.workRounds b.toNat = { (s.workRounds a.toNat).workRounds b.toNat with responses := t.responses } :=
    State.workRounds_withResponses (s.workRounds a.toNat) t.responses b.toNat
  have hwords : t.keyWords b.toNat = (s.workRounds a.toNat).keyWords b.toNat :=
    State.keyWords_withResponses (s.workRounds a.toNat) t.responses b.toNat
  obtain ⟨_, _, _, hresp', _, _⟩ := State.workRounds_frame s (a + b).toNat
  refine ⟨s.keyWords a.toNat, t.keyWords b.toNat, t, (t.workRounds b.toNat).respond .ok (t.keyWords b.toNat),
    exec_fill_ready hp a, ?_, exec_fill_ready htphase b, ?_, ?_⟩
  · rw [State.respond_responses, hresp]
  · rw [State.respond_responses, hrounds]
  · rw [exec_fill_ready hp, State.respond, hresp', BitVec.toNat_add_of_lt hab, State.workRounds_add,
      State.keyWords_add, hwords, hrounds]
    rfl

/-! ## When a step stops (R129, R131) -/

/-- INITIALIZING with rc above 32 and no reset coming first: no step is defined (R129, log 8). -/
def State.Stuck (s : State) : Prop := s.phase = .initializing ∧ 32 < s.rc.toNat ∧ resetFirst s.host = false

theorem step_of_stuck {s : State} (h : s.Stuck) : step s = .fault .noSequencerOperation := by
  obtain ⟨hp, hrc, hr⟩ := h
  obtain ⟨e, t, he, hh, _⟩ | ⟨_, ⟨hlt, _⟩ | ⟨heq, _⟩ | ⟨_, hs⟩⟩ := step_initializing_cases hp
  · rw [hh, resetFirst, he] at hr
    cases hr
  · omega
  · rw [heq] at hrc
    exact absurd hrc (by decide)
  · exact hs

theorem step_of_not_stuck {s : State} (h : ¬ s.Stuck) : ∃ t, step s = .next t := by
  by_cases hp : s.phase = .initializing
  · obtain ⟨_, _, _, _, hs⟩ | ⟨hr, ⟨_, hs⟩ | ⟨_, hs⟩ | ⟨hrc, _⟩⟩ := step_initializing_cases hp
    · exact ⟨_, hs⟩
    · exact ⟨_, hs⟩
    · exact ⟨_, hs⟩
    · exact absurd ⟨hp, hrc, hr⟩ h
  · obtain ⟨i, rest, _, hi, _, hs⟩ | ⟨_, _, _, _, hs⟩ | ⟨_, hs⟩ | ⟨_, hs⟩ := step_idle_cases hp
    · rw [hs]
      exact exec_command_completes hi _
    · exact ⟨_, hs⟩
    · exact ⟨_, hs⟩
    · exact ⟨_, hs⟩

/-- Settles O41: a step faults where the state is stuck and answers a next state elsewhere. -/
theorem stepStopsOnlyWhereNoStepIsDefined : Obligations.StepStopsOnlyWhereNoStepIsDefined := by
  intro s
  by_cases h : s.Stuck
  · rw [step_of_stuck h]
    refine ⟨nofun, fun f => ⟨fun hf => ?_, fun hf => by rw [hf.1]⟩⟩
    cases hf
    exact ⟨rfl, h⟩
  · obtain ⟨t, ht⟩ := step_of_not_stuck h
    rw [ht]
    exact ⟨nofun, fun f => ⟨nofun, fun hf => absurd hf.2 h⟩⟩

/-- Settles O42: the invariant bounds rc by 32, so the state is not stuck. -/
theorem invariantStatesStep : Obligations.InvariantStatesStep := fun _ ⟨hrc, _, _⟩ =>
  step_of_not_stuck fun ⟨_, hgt, _⟩ => absurd hrc (Nat.not_le.2 hgt)

/-! ## The transitions of the phase (R134) -/

/-- What a command, or waiting, does to the phase of a state that takes commands: a row of the table of R134. -/
def CommandTransition (s t : State) : Prop :=
  t.resets = s.resets ∧
    ((s.phase = .unseeded ∧ t.phase = .unseeded ∧ t.rc = s.rc ∧ t.lfsr = s.lfsr ∧ t.r1 = s.r1 ∧ t.r2 = s.r2) ∨
     (s.phase = .unseeded ∧ t.phase = .initializing ∧ t.rc = 0#6 ∧ t.r1 = 0#32 ∧ t.r2 = 0#32) ∨
     (s.phase = .ready ∧ t.phase = .ready ∧ t.rc = s.rc))

theorem Phase.unseeded_or_ready {p : Phase} (hp : p ≠ .initializing) : p = .unseeded ∨ p = .ready := by
  cases p with
  | unseeded => exact .inl rfl
  | initializing => exact absurd rfl hp
  | ready => exact .inr rfl

/-- A step that writes no register keeps the phase. -/
theorem commandTransition_of_unchanged {s t : State} (hp : s.phase ≠ .initializing)
    (ht : t = { s with host := t.host, responses := t.responses }) : CommandTransition s t := by
  rw [ht]
  obtain hu | hr := Phase.unseeded_or_ready hp
  · exact ⟨rfl, .inl ⟨hu, hu, rfl, rfl, rfl, rfl⟩⟩
  · exact ⟨rfl, .inr (.inr ⟨hr, hr, rfl⟩)⟩

/-- Every command makes a transition of the table in a state that takes commands. -/
theorem exec_commandTransition {i : Instr} {s t : State} (hi : i.space = .hostCommand) (hp : s.phase ≠ .initializing)
    (h : exec i s = .next t) : CommandTransition s t := by
  cases i with
  | seed key iv =>
    obtain ⟨hinit, _⟩ | ⟨_, rfl⟩ | ⟨_, _, rfl⟩ | ⟨_, _, _, rfl⟩ | ⟨hu, _, _, rfl⟩ := execSeed_cases h
    · exact absurd hinit hp
    · exact commandTransition_of_unchanged hp rfl
    · exact commandTransition_of_unchanged hp rfl
    · exact commandTransition_of_unchanged hp rfl
    · exact ⟨rfl, .inr (.inl ⟨hu, rfl, rfl, rfl, rfl⟩)⟩
  | next =>
    obtain ⟨hinit, _⟩ | ⟨_, rfl⟩ | ⟨hr, rfl⟩ := execNext_cases h
    · exact absurd hinit hp
    · exact commandTransition_of_unchanged hp rfl
    · exact ⟨rfl, .inr (.inr ⟨hr, hr, rfl⟩)⟩
  | fill n =>
    obtain ⟨hinit, _⟩ | ⟨_, rfl⟩ | ⟨hr, rfl⟩ := execFill_cases h
    · exact absurd hinit hp
    · exact commandTransition_of_unchanged hp rfl
    · obtain ⟨hphase, hrc, _, _, hresets, _⟩ := State.workRounds_frame s n.toNat
      exact ⟨hresets, .inr (.inr ⟨hr, hphase.trans hr, hrc⟩)⟩
  | illegal opcode =>
    obtain ⟨hinit, _⟩ | ⟨_, rfl⟩ := execIllegal_cases h
    · exact absurd hinit hp
    · exact commandTransition_of_unchanged hp rfl
  | initRound r => cases hi
  | finish => cases hi

theorem State.countedRound_rc_toNat {s : State} (h : s.rc.toNat < 32) : s.countedRound.rc.toNat = s.rc.toNat + 1 := by
  rw [State.countedRound_rc, BitVec.toNat_add_of_lt (by simp; omega)]
  rfl

/-- A step of a state that takes commands is a reset or makes a transition of the table. -/
theorem step_idle_transition {s t : State} (hp : s.phase ≠ .initializing) (h : step s = .next t) :
    (t.resets = s.resets + 1 ∧ t.phase = .unseeded ∧ t.rc = 0#6 ∧ t.responses = s.responses) ∨
      CommandTransition s t := by
  obtain ⟨i, rest, _, hi, _, hs⟩ | ⟨_, _, _, _, hs⟩ | ⟨_, hs⟩ | ⟨_, hs⟩ := step_idle_cases hp
  · have hc : CommandTransition (s.withHost (offer rest ++ afterBytes s.host)) t :=
      exec_commandTransition hi hp (hs.symm.trans h)
    exact .inr hc
  · cases hs.symm.trans h
    exact .inl ⟨rfl, rfl, rfl, rfl⟩
  · cases hs.symm.trans h
    exact .inl ⟨rfl, rfl, rfl, rfl⟩
  · cases hs.symm.trans h
    exact .inr (commandTransition_of_unchanged hp rfl)

/-- Settles O43: the rows of the sequencer, and those of the commands by `step_idle_transition`. -/
theorem phaseTransitions : Obligations.PhaseTransitions := by
  intro s t h
  by_cases hp : s.phase = .initializing
  · obtain ⟨_, _, _, _, hs⟩ | ⟨_, ⟨hrc, hs⟩ | ⟨hrc, hs⟩ | ⟨_, hs⟩⟩ := step_initializing_cases hp
    · cases hs.symm.trans h
      exact .inl ⟨rfl, rfl, rfl, rfl⟩
    · cases hs.symm.trans h
      exact .inr ⟨rfl, .inr (.inr (.inl ⟨hp, Nat.le_of_lt_succ hrc, hp,
        State.countedRound_rc_toNat (s := s.withHost (dropWait s.host)) hrc⟩))⟩
    · cases hs.symm.trans h
      have hrc32 : s.rc.toNat = 32 := congrArg BitVec.toNat hrc
      exact .inr ⟨State.finishingRound_resets _, .inr (.inr (.inr (.inl ⟨hp, hrc32,
        State.finishingRound_phase _, State.finishingRound_rc _⟩)))⟩
    · cases hs.symm.trans h
  · obtain hreset | ⟨hresets, hkeep | hload | hready⟩ := step_idle_transition hp h
    · exact .inl hreset
    · exact .inr ⟨hresets, .inl hkeep⟩
    · exact .inr ⟨hresets, .inr (.inl hload)⟩
    · exact .inr ⟨hresets, .inr (.inr (.inr (.inr hready)))⟩

/-! ## The initialization (R128, R133) -/

/-- The host asserts no reset at all. -/
def NoReset (h : List HostEvent) : Prop := ∀ e ∈ h, e.isReset = false

theorem resetFirst_of_noReset {h : List HostEvent} (hno : NoReset h) : resetFirst h = false := by
  cases h with
  | nil => rfl
  | cons e t => exact hno e List.mem_cons_self

theorem cutFirst_of_noReset {h : List HostEvent} (hno : NoReset h) : cutFirst h = none := by
  cases hc : cutFirst h with
  | none => rfl
  | some p =>
    rw [cutFirst_eq_some hc] at hno
    exact absurd (hno _ List.mem_cons_self) (by simp [HostEvent.isReset])

theorem noReset_dropWait (h : List HostEvent) (hno : NoReset h) : NoReset (dropWait h) := by
  intro e he
  unfold dropWait at he
  split at he
  · exact hno e (List.mem_cons_of_mem _ he)
  · exact hno e he

theorem noReset_iterate_dropWait {h : List HostEvent} (hno : NoReset h) (n : Nat) : NoReset (dropWait^[n] h) :=
  Function.Iterate.rec NoReset hno noReset_dropWait n

theorem noReset_offer (bytes : List Byte) : NoReset (offer bytes) := by
  intro e he
  obtain ⟨b, _, rfl⟩ := List.mem_map.1 he
  rfl

/-- n INIT_ROUNDs count rc up by n, while it stays at most 32. -/
theorem State.countedRounds_rc_toNat {s : State} {n : Nat} (h : s.rc.toNat + n ≤ 32) :
    (s.countedRounds n).rc.toNat = s.rc.toNat + n := by
  induction n generalizing s with
  | zero => rfl
  | succ n ih =>
    have hrc := State.countedRound_rc_toNat (s := s) (by omega)
    rw [State.countedRounds, ih (by omega)]
    omega

theorem State.countedRounds_withHost (s : State) (h : List HostEvent) (n : Nat) :
    (s.withHost h).countedRounds n = (s.countedRounds n).withHost h := by
  induction n generalizing s with
  | zero => rfl
  | succ n ih => exact ih s.countedRound

/-- Without a reset, n steps of INITIALIZING are n INIT_ROUNDs as long as rc stays at most 32; the host's list only loses
the `wait`s that the steps use up. -/
theorem run_countedRounds {s : State} {n : Nat} (hp : s.phase = .initializing) (hn : s.rc.toNat + n ≤ 32)
    (hno : NoReset s.host) : run n s = .next ((s.countedRounds n).withHost (dropWait^[n] s.host)) := by
  induction n generalizing s with
  | zero => rfl
  | succ n ih =>
    let u := s.countedRound.withHost (dropWait s.host)
    have hstep : step s = .next u := by
      rw [step_sequenced hp (by omega) (resetFirst_of_noReset hno), State.sequenced, if_pos (by omega)]
    have hrc : u.rc.toNat = s.rc.toNat + 1 := State.countedRound_rc_toNat (by omega)
    rw [run_succ_of_next hstep, ih (s := u) hp (by omega) (noReset_dropWait _ hno), State.countedRounds_withHost]
    rfl

/-- The initialization from n INIT_ROUNDs before its end: those, and then FINISH (R133). -/
theorem run_initialization {s : State} {n : Nat} (hp : s.phase = .initializing) (hn : s.rc.toNat + n = 32)
    (hno : NoReset s.host) :
    run (n + 1) s = .next ((s.countedRounds n).finishingRound.withHost (dropWait^[n + 1] s.host)) := by
  let u := (s.countedRounds n).withHost (dropWait^[n] s.host)
  obtain ⟨hphase, _⟩ := State.countedRounds_frame s n
  have hrc : u.rc.toNat = 32 := (State.countedRounds_rc_toNat (by omega)).trans hn
  have hlast : step u = .next (u.finishingRound.withHost (dropWait u.host)) := by
    rw [step_sequenced (s := u) (hphase.trans hp) (by omega) (resetFirst_of_noReset (noReset_iterate_dropWait hno n)),
      State.sequenced, if_neg (by omega)]
  rw [run_add (run_countedRounds hp (by omega) hno) 1, run_succ_of_next hlast, run_zero, State.withHost_host,
    ← Function.iterate_succ_apply' dropWait]
  rfl

/-- Settles O44: before the end `run_countedRounds`, at the end `run_initialization`. -/
theorem initializationEnds : Obligations.InitializationEnds := by
  intro s hp hrc hno
  refine ⟨fun k hk => ?_, ?_⟩
  · obtain ⟨hphase, _, hresp, _, _⟩ := State.countedRounds_frame s k
    exact ⟨_, run_countedRounds hp (by omega) hno, hphase.trans hp, State.countedRounds_rc_toNat (by omega), hresp⟩
  · obtain ⟨_, _, hresp, _, _⟩ := State.countedRounds_frame s (32 - s.rc.toNat)
    have hend := run_initialization (n := 32 - s.rc.toNat) hp (by omega) hno
    rw [show 32 - s.rc.toNat + 1 = 33 - s.rc.toNat by omega] at hend
    refine ⟨_, hend, rfl, rfl, ?_⟩
    rw [State.withHost_responses, State.finishingRound_responses, hresp]

/-- A well-formed command that is offered first, with no reset in its middle, is what the next step runs. -/
theorem step_offered_command {s : State} {i : Instr} {after : List HostEvent} (hp : s.phase ≠ .initializing)
    (hi : i.space = .hostCommand) (hw : WellFormed i) (hc : cutFirst after = none) :
    step (s.withHost (offer (encode i) ++ after)) = exec i (s.withHost after) := by
  have hd : decode .hostCommand (leadingBytes (offer (encode i) ++ after)) = .instr i (leadingBytes after) := by
    rw [leadingBytes_offer]
    exact decode_encode hi hw _
  have hafter : offer (leadingBytes after) ++ afterBytes (offer (encode i) ++ after) = after := by
    rw [afterBytes_offer, offer_leadingBytes]
  have hstep := stepRunsTheOfferedPacket (s.withHost (offer (encode i) ++ after)) i (leadingBytes after) hp hd
    (by rw [State.withHost_host, hafter, hc])
  rwa [State.withHost_host, hafter, State.withHost_withHost] at hstep

theorem wellFormed_seed_of_valid {key iv : List Byte} (hl : SeedLengthsValid key iv) : WellFormed (.seed key iv) :=
  decide_eq_true (by omega : seedLengthsFit key iv)

/-- Settles O45: the step of SEED, then `run_initialization` from rc 0; offered bytes hold no `wait` to use up. -/
theorem smallStepsMakeTheBigStep : Obligations.SmallStepsMakeTheBigStep := by
  intro s key iv bytes hp hl
  let u := (s.withHost (offer bytes)).load (schedule key iv)
  have hseed : step (s.withHost (offer (encode (.seed key iv)) ++ offer bytes)) = .next u := by
    have hcut : cutFirst (offer bytes) = none := cutFirst_of_noReset (noReset_offer bytes)
    rw [step_offered_command (by simp [hp]) rfl (wellFormed_seed_of_valid hl) hcut]
    exact exec_seed_accepted hp hl
  have hfixed : dropWait^[33] u.host = offer bytes := Function.iterate_fixed (dropWait_offer bytes) 33
  let big := (s.withHost (offer bytes)).seedBig key iv
  obtain ⟨_, _, hhost, _⟩ := State.seedBig_frame (s.withHost (offer bytes)) key iv
  have hself : big.withHost (offer bytes) = big := congrArg big.withHost hhost.symm
  rw [run_succ_of_next hseed, run_initialization (n := 32) rfl rfl (noReset_offer bytes), hfixed]
  exact congrArg Host.Outcome.next hself

/-! ## The known vectors (R142) -/

/-- Settles O48: the kernel runs the 33 rounds of the initialization and two work-mode rounds, for each scenario. -/
theorem knownVectors : Obligations.KnownVectors := by
  constructor
  · decide +kernel
  · decide +kernel

end Sys2Proof.Machine
end

section
/-! PROOF. Statuses and errors (spec/60_exceptions.md R150, R153, R156): the cause of each status, what an error leaves
unchanged, and the illegal opcodes. -/

namespace Sys2Proof.Machine

/-! ## The table of R150 -/

/-- The row of the table of R150 for a status: the operations, the phase and the lengths that give it. -/
def StatusCause (i : Instr) (s : State) : Status → Prop
  | .ok => s.phase ≠ .unseeded ∧ (i = .finish ∨ i = .next ∨ ∃ n, i = .fill n)
  | .errKeySize => s.phase = .unseeded ∧ ∃ key iv, i = .seed key iv ∧ key.length ≠ 16 ∧ key.length ≠ 32
  | .errIvSize => s.phase = .unseeded ∧ ∃ key iv, i = .seed key iv ∧
      ((key.length = 16 ∧ iv.length ≠ 16) ∨ (key.length = 32 ∧ iv.length ≠ 23))
  | .errNotReady => s.phase = .unseeded ∧ (i = .next ∨ ∃ n, i = .fill n)
  | .errAlreadySeeded => s.phase = .ready ∧ ∃ key iv, i = .seed key iv
  | .errIllegalOpcode => ∃ opcode, i = .illegal opcode

/-- The table read from the operation to the status. What it gives for an operation that is not answered is not used. -/
def tableStatus (i : Instr) (s : State) : Status :=
  match i with
  | .seed key _ =>
    if s.phase = .ready then .errAlreadySeeded else if keyLengthOk key.length then .errIvSize else .errKeySize
  | .next | .fill _ => if s.phase = .unseeded then .errNotReady else .ok
  | .illegal _ => .errIllegalOpcode
  | .initRound _ | .finish => .ok

theorem StatusCause.eq_tableStatus {i : Instr} {s : State} {st : Status} (h : StatusCause i s st) :
    st = tableStatus i s := by
  cases st with
  | ok =>
    obtain ⟨hp, rfl | rfl | ⟨n, rfl⟩⟩ := h
    · rfl
    · exact (if_neg hp).symm
    · exact (if_neg hp).symm
  | errKeySize =>
    obtain ⟨hp, key, iv, rfl, hk⟩ := h
    simp [tableStatus, hp, keyLengthOk_eq_false_iff.2 hk]
  | errIvSize =>
    obtain ⟨hp, key, iv, rfl, ⟨hk, _⟩ | ⟨hk, _⟩⟩ := h
    · simp [tableStatus, hp, hk, keyLengthOk]
    · simp [tableStatus, hp, hk, keyLengthOk]
  | errNotReady =>
    obtain ⟨hp, rfl | ⟨n, rfl⟩⟩ := h
    · exact (if_pos hp).symm
    · exact (if_pos hp).symm
  | errAlreadySeeded =>
    obtain ⟨hp, key, iv, rfl⟩ := h
    exact (if_pos hp).symm
  | errIllegalOpcode =>
    obtain ⟨opcode, rfl⟩ := h
    rfl

/-- The rows exclude each other. -/
theorem StatusCause.unique {i : Instr} {s : State} {st st' : Status} (h : StatusCause i s st)
    (h' : StatusCause i s st') : st = st' := h.eq_tableStatus.trans h'.eq_tableStatus.symm

/-! ## What an operation that is answered has done -/

/-- The one response that an operation adds is the one it gives to `respond`. -/
theorem State.response_of_respond {s u : State} {st : Status} {ws : List Word} {r : Response}
    (hu : u.responses = s.responses) (hr : (u.respond st ws).responses = s.responses ++ [r]) : r = ⟨st, ws⟩ := by
  rw [State.respond_responses, hu] at hr
  simpa using hr.symm

/-- A response with its cause in the table; with an error, it is all that the operation did. -/
def Answered (i : Instr) (s t : State) (r : Response) : Prop :=
  StatusCause i s r.status ∧ (r.status = .ok ∨ r.words = [] ∧ t = s.respond r.status [])

theorem answered_of_error {i : Instr} {s : State} {st : Status} {r : Response} (hc : StatusCause i s st)
    (hr : (s.respond st []).responses = s.responses ++ [r]) : Answered i s (s.respond st []) r := by
  obtain rfl := State.response_of_respond rfl hr
  exact ⟨hc, .inr ⟨rfl, rfl⟩⟩

theorem answered_of_ok {i : Instr} {s u : State} {ws : List Word} {r : Response} (hc : StatusCause i s .ok)
    (hu : u.responses = s.responses) (hr : (u.respond .ok ws).responses = s.responses ++ [r]) :
    Answered i s (u.respond .ok ws) r := by
  obtain rfl := State.response_of_respond hu hr
  exact ⟨hc, .inl rfl⟩

/-- An operation that is held, or whose response comes later, is not answered. -/
theorem answered_of_silent {i : Instr} {s t : State} {r : Response} (ht : t.responses = s.responses)
    (hr : t.responses = s.responses ++ [r]) : Answered i s t r := by
  simp [ht] at hr

/-- Every operation that is answered is answered by the table. -/
theorem exec_answered {i : Instr} {s t : State} {r : Response} (h : exec i s = .next t)
    (hr : t.responses = s.responses ++ [r]) : Answered i s t r := by
  cases i with
  | seed key iv =>
    obtain ⟨_, rfl⟩ | ⟨hp, rfl⟩ | ⟨hp, hk, rfl⟩ | ⟨hp, hk, hi, rfl⟩ | ⟨_, _, _, rfl⟩ := execSeed_cases h
    · exact answered_of_silent rfl hr
    · exact answered_of_error ⟨hp, key, iv, rfl⟩ hr
    · exact answered_of_error ⟨hp, key, iv, rfl, keyLengthOk_eq_false_iff.1 hk⟩ hr
    · exact answered_of_error ⟨hp, key, iv, rfl, (ivLengthOk_eq_false_iff hk).1 hi⟩ hr
    · exact answered_of_silent rfl hr
  | next =>
    obtain ⟨_, rfl⟩ | ⟨hp, rfl⟩ | ⟨hp, rfl⟩ := execNext_cases h
    · exact answered_of_silent rfl hr
    · exact answered_of_error ⟨hp, .inl rfl⟩ hr
    · exact answered_of_ok ⟨by simp [hp], .inr (.inl rfl)⟩ rfl hr
  | fill n =>
    obtain ⟨_, rfl⟩ | ⟨hp, rfl⟩ | ⟨hp, rfl⟩ := execFill_cases h
    · exact answered_of_silent rfl hr
    · exact answered_of_error ⟨hp, .inr ⟨n, rfl⟩⟩ hr
    · obtain ⟨_, _, _, hresp, _, _⟩ := State.workRounds_frame s n.toNat
      exact answered_of_ok ⟨by simp [hp], .inr (.inr ⟨n, rfl⟩)⟩ hresp hr
  | illegal opcode =>
    obtain ⟨_, rfl⟩ | ⟨_, rfl⟩ := execIllegal_cases h
    · exact answered_of_silent rfl hr
    · exact answered_of_error ⟨opcode, rfl⟩ hr
  | initRound _ =>
    obtain ⟨_, _, rfl⟩ := execInitRound_cases h
    exact answered_of_silent rfl hr
  | finish =>
    obtain ⟨hp, _, rfl⟩ := execFinish_cases h
    exact answered_of_ok ⟨by simp [hp], .inl rfl⟩ rfl hr

theorem status_eq_iff_cause {i : Instr} {s t : State} {r : Response} (h : exec i s = .next t)
    (hr : t.responses = s.responses ++ [r]) (st : Status) : r.status = st ↔ StatusCause i s st := by
  obtain ⟨hc, _⟩ := exec_answered h hr
  exact ⟨fun he => he ▸ hc, fun hc' => hc.unique hc'⟩

theorem Status.code_le_five (st : Status) : st.code.toNat ≤ 5 := by
  cases st <;> decide

/-- Settles O33: the six rows of the table are `StatusCause`, and the codes are read off. -/
theorem statusesHaveTheirCausesAndCodes : Obligations.StatusesHaveTheirCausesAndCodes := by
  refine ⟨fun i s t r h hr => ?_, Status.code_le_five, rfl, rfl, rfl, rfl, rfl, rfl⟩
  have hrow := status_eq_iff_cause h hr
  exact ⟨hrow .ok, hrow .errKeySize, hrow .errIvSize, hrow .errNotReady, hrow .errAlreadySeeded,
    hrow .errIllegalOpcode⟩

/-- Settles O34: an operation that is answered an error has only responded. -/
theorem failedCommandChangesNothing : Obligations.FailedCommandChangesNothing := by
  intro i s t r h hr hne
  obtain ⟨_, hok | ⟨hw, ht⟩⟩ := exec_answered h hr
  · exact absurd hok hne
  · refine ⟨hw, ?_⟩
    rw [ht, State.respond, ← hw]

/-! ## Illegal opcodes (R156) -/

theorem exec_illegal_idle {s : State} (hp : s.phase ≠ .initializing) (opcode : Byte) :
    exec (.illegal opcode) s = .next (s.respond .errIllegalOpcode []) := by
  rw [exec, execIllegal, State.takeCommand_of_idle hp, State.raise_eq]

/-- An illegal opcode is answered or held; neither writes a register. -/
theorem exec_illegal_frame {opcode : Byte} {s t : State} (h : exec (.illegal opcode) s = .next t) :
    t = { s with host := t.host, responses := t.responses } := by
  obtain ⟨_, rfl⟩ | ⟨_, rfl⟩ := execIllegal_cases h
  · rfl
  · rfl

/-- Settles O30: its packet is its encoding, one byte. -/
theorem illegalOpcodeIsAnsweredOnly : Obligations.IllegalOpcodeIsAnsweredOnly := by
  intro opcode rest s hill
  have hdecode := decode_encode (i := .illegal opcode) rfl (decide_eq_true hill) rest
  obtain ⟨t, ht⟩ := exec_command_completes (i := .illegal opcode) rfl s
  refine ⟨hdecode, fun hp => exec_illegal_idle hp opcode, t, ht, ?_⟩
  rw [exec_illegal_frame ht]
  exact ⟨rfl, rfl, rfl, rfl, rfl, rfl, rfl⟩

end Sys2Proof.Machine
end

section
/-! PROOF. Reset (spec/70_reset_and_hazards.md R170 to R172): what a reset abandons, what it leaves delivered of a response
that it stops, and the stream that begins again after it. -/

namespace Sys2Proof.Machine

/-! ## A reset overwrites what the host offers (log 3) -/

@[simp] theorem State.resetBlock_withHost (s : State) (h after : List HostEvent) :
    (s.withHost h).resetBlock after = s.resetBlock after := rfl

@[simp] theorem State.withHost_resetBlock (s : State) (h h' : List HostEvent) :
    (s.resetBlock h).withHost h' = s.resetBlock h' := by
  simp only [State.withHost, State.resetBlock]

@[simp] theorem State.cutShort_withHost (s : State) (h : List HostEvent) (outcome : Result) (k : Nat)
    (after : List HostEvent) : (s.withHost h).cutShort outcome k after = s.cutShort outcome k after := by
  cases outcome <;> rfl

/-! ## A reset before a step's command is complete (R170) -/

/-- Outside INITIALIZING a reset drops the bytes of an incomplete packet, or comes first when there are none. -/
theorem fetchCommand_of_reset {bytes : List Byte} {why : DecodeError} {e : HostEvent} (after : List HostEvent)
    (hd : decode .hostCommand bytes = .reject why) (he : e.isReset = true) :
    fetchCommand (offer bytes ++ e :: after) = .reset after := by
  cases e with
  | rst => simp [fetchCommand, hd]
  | rstDuring k => simp [fetchCommand, hd]
  | byte b => cases he
  | wait => cases he

theorem fetchSequencer_of_reset (word : Byte) {e : HostEvent} (after : List HostEvent) (he : e.isReset = true) :
    fetchSequencer word (e :: after) = .reset after := by
  cases e with
  | rst => rfl
  | rstDuring k => rfl
  | byte b => cases he
  | wait => cases he

/-- A reset behind an incomplete packet is what the step takes. -/
theorem step_of_reset_in_packet {s : State} {bytes : List Byte} {why : DecodeError} {e : HostEvent}
    {after : List HostEvent} (hp : s.phase ≠ .initializing) (hd : decode .hostCommand bytes = .reject why)
    (he : e.isReset = true) (hh : s.host = offer bytes ++ e :: after) : step s = .next (s.resetBlock after) := by
  rw [step, State.fetch_of_idle hp, hh, fetchCommand_of_reset after hd he]

/-- A reset that comes first is what the step takes, in every phase and at every rc: outside INITIALIZING it stands
behind a packet of which nothing has come. -/
theorem step_of_reset {s : State} {e : HostEvent} {after : List HostEvent} (he : e.isReset = true)
    (hh : s.host = e :: after) : step s = .next (s.resetBlock after) := by
  by_cases hp : s.phase = .initializing
  · have hf : s.fetch = fetchSequencer s.sequencerWord s.host := if_pos hp
    rw [step, hf, hh, fetchSequencer_of_reset _ after he]
  · exact step_of_reset_in_packet (bytes := []) hp rfl he hh

/-- Settles O36: both steps are the reset. -/
theorem resetAbandonsEverything : Obligations.ResetAbandonsEverything := by
  refine ⟨fun s e after he => ?_, fun s bytes why e after hp hd he => ?_⟩
  · refine ⟨_, step_of_reset he (State.withHost_host _ _), ?_⟩
    simp
  · refine ⟨_, step_of_reset_in_packet hp hd he (State.withHost_host _ _), ?_⟩
    simp

/-! ## A reset in the middle of a command (R170) -/

/-- A well-formed command with a reset in its middle is taken, and is cut short. -/
theorem fetchCommand_of_cut {i : Instr} (k : Nat) (after : List HostEvent) (hi : i.space = .hostCommand)
    (hw : WellFormed i) : fetchCommand (offer (encode i) ++ .rstDuring k :: after) = .cut i k after := by
  have hd : decode .hostCommand (encode i) = .instr i [] := by simpa using decode_encode hi hw []
  have hnil : offer [] = [] := rfl
  simp [fetchCommand, hd, hnil]

theorem step_cut_command {s : State} {i : Instr} (k : Nat) (after : List HostEvent) (hp : s.phase ≠ .initializing)
    (hi : i.space = .hostCommand) (hw : WellFormed i) :
    step (s.withHost (offer (encode i) ++ .rstDuring k :: after)) =
      .next (s.cutShort (exec i (s.withHost after)) k after) := by
  rw [step, State.fetch_of_idle (by simpa using hp), State.withHost_host, fetchCommand_of_cut k after hi hw]
  simp only [State.withHost_withHost, State.cutShort_withHost]

/-- A command that would have given no response leaves nothing on record. -/
theorem State.cutShort_stopped_of_silent {s u : State} (h : u.responses = s.responses) (k : Nat)
    (host : List HostEvent) : (s.cutShort (.next u) k host).stopped = s.stopped := by
  rw [State.cutShort_stopped, State.itemsGiven_of_silent h, List.dropLast_nil, List.take_nil]
  exact List.append_nil _

/-- Of the response that the command would have given, the items delivered are on record. -/
theorem State.cutShort_stopped_of_response {s u : State} {r : Response} (h : u.responses = s.responses ++ [r])
    (k : Nat) (host : List HostEvent) : (s.cutShort (.next u) k host).stopped =
      if k = 0 ∨ r.words = [] then s.stopped
      else s.stopped ++
        [⟨s.responses.length, .status r.status.code :: (r.words.dropLast.take (k - 1)).map .word⟩] := by
  rw [State.cutShort_stopped, State.itemsGiven_of_response h, stoppedRecord_items, apply_ite (s.stopped ++ ·),
    List.append_nil]

/-- Settles O50: the step is `State.cutShort` of the outcome that the command would have had. -/
theorem resetStopsAResponse : Obligations.ResetStopsAResponse := by
  intro s i k after hp hi hw
  obtain ⟨u, hu⟩ := exec_command_completes hi (s.withHost after)
  have hstep := step_cut_command k after hp hi hw
  rw [hu] at hstep
  exact ⟨_, u, hstep, hu, State.cutShort_phase _ _ _ _, State.cutShort_rc _ _ _ _, State.cutShort_host _ _ _ _,
    State.cutShort_responses _ _ _ _, State.cutShort_resets _ _ _ _,
    fun hr => State.cutShort_stopped_of_silent hr k after, fun _ hr => State.cutShort_stopped_of_response hr k after⟩

/-! ## What the keystream depends on (R137, R172) -/

/-- The state with its lfsr, r1 and r2, and with everything else as `State.reset` has it. -/
def State.registersOnly (s : State) : State := { State.reset with lfsr := s.lfsr, r1 := s.r1, r2 := s.r2 }

/-- A round reads lfsr, r1 and r2 alone, and writes nothing else. -/
theorem State.round_registersOnly (s : State) (m : Mode) : (s.round m).registersOnly = s.registersOnly.round m := by
  cases m <;> rfl

/-- The words read lfsr, r1 and r2 alone. -/
theorem State.keyWords_registersOnly (s : State) (n : Nat) : s.registersOnly.keyWords n = s.keyWords n := by
  induction n generalizing s with
  | zero => rfl
  | succ n ih =>
    rw [State.keyWords_succ, State.keyWords_succ, ← State.round_registersOnly, ih]
    rfl

/-- INIT_ROUNDs keep two states together that agree on lfsr, r1 and r2: they count rc, which no round reads. -/
theorem State.countedRounds_registersOnly {s t : State} (h : s.registersOnly = t.registersOnly) (n : Nat) :
    (s.countedRounds n).registersOnly = (t.countedRounds n).registersOnly := by
  induction n generalizing s t with
  | zero => exact h
  | succ n ih =>
    apply ih
    calc s.countedRound.registersOnly
        = s.registersOnly.round .initialization := State.round_registersOnly s .initialization
      _ = t.registersOnly.round .initialization := by rw [h]
      _ = t.countedRound.registersOnly := (State.round_registersOnly t .initialization).symm

/-- SEED overwrites lfsr, r1 and r2 (R20, R126), so after the big step they depend on key and IV alone. -/
theorem State.seedBig_registersOnly (s t : State) (key iv : List Byte) :
    (s.seedBig key iv).registersOnly = (t.seedBig key iv).registersOnly := by
  have hload : (s.load (schedule key iv)).registersOnly = (t.load (schedule key iv)).registersOnly := rfl
  have hrounds := State.countedRounds_registersOnly hload Config.initRounds
  calc (s.seedBig key iv).registersOnly
      = (((s.load (schedule key iv)).countedRounds Config.initRounds).registersOnly).round .work :=
        State.round_registersOnly _ .work
    _ = (((t.load (schedule key iv)).countedRounds Config.initRounds).registersOnly).round .work := by rw [hrounds]
    _ = (t.seedBig key iv).registersOnly := (State.round_registersOnly _ .work).symm

/-- The stream after a SEED depends on key and IV alone (R137). -/
theorem State.keyWords_seedBig (s t : State) (key iv : List Byte) (n : Nat) :
    (s.seedBig key iv).keyWords n = (t.seedBig key iv).keyWords n := by
  rw [← State.keyWords_registersOnly, State.seedBig_registersOnly s t, State.keyWords_registersOnly]

/-! ## The stream begins again (R172) -/

/-- A FILL that is offered last, in READY, is answered its words and leaves nothing offered. -/
theorem step_fill_offered {s : State} {n : BitVec 32} (hp : s.phase = .ready)
    (hh : s.host = offer (encode (.fill n))) :
    ∃ t, step s = .next t ∧ t.phase = .ready ∧ t.host = [] ∧
      t.responses = s.responses ++ [⟨.ok, s.keyWords n.toNat⟩] := by
  let u := s.withHost []
  have hself : s.withHost (offer (encode (.fill n)) ++ []) = s := by
    rw [List.append_nil, ← hh, State.withHost_self]
  have hstep : step s = exec (.fill n) u := by
    have h := step_offered_command (s := s) (i := .fill n) (after := []) (by simp [hp]) rfl rfl rfl
    rwa [hself] at h
  have hwords : u.keyWords n.toNat = s.keyWords n.toNat :=
    (State.keyWords_registersOnly u n.toNat).symm.trans (State.keyWords_registersOnly s n.toNat)
  obtain ⟨hphase, _, hhost, hresp, _, _⟩ := State.workRounds_frame u n.toNat
  refine ⟨_, hstep.trans (exec_fill_ready (s := u) hp n), hphase.trans hp, hhost, ?_⟩
  rw [State.respond_responses, hresp, hwords, State.withHost_responses]

/-- Settles O47: the reset (1 step), the big step of SEED (34 steps), FILL (1 step), and words that depend on key and IV
alone. -/
theorem restartBeginsTheSameStream : Obligations.RestartBeginsTheSameStream := by
  intro s key iv n hl hhost
  let fill := encode (.fill n)
  let u := (s.resetBlock (offer fill)).seedBig key iv
  have hreset : step s = .next (s.resetBlock (offer (encode (.seed key iv)) ++ offer fill)) := step_of_reset rfl hhost
  have hseed : run 34 (s.resetBlock (offer (encode (.seed key iv)) ++ offer fill)) = .next u := by
    simpa only [State.withHost_resetBlock] using
      smallStepsMakeTheBigStep (s.resetBlock []) key iv fill (State.resetBlock_phase s []) hl
  obtain ⟨hphase, _, huhost, huresp, _, _⟩ := State.seedBig_frame (s.resetBlock (offer fill)) key iv
  rw [State.resetBlock_host] at huhost
  rw [State.resetBlock_responses] at huresp
  obtain ⟨t, hfill, htphase, hthost, htresp⟩ := step_fill_offered (s := u) hphase huhost
  have hwords : u.keyWords n.toNat = (State.reset.seedBig key iv).keyWords n.toNat :=
    State.keyWords_seedBig _ State.reset key iv n.toNat
  refine ⟨t, ?_, htphase, hthost, ?_⟩
  · calc run 36 s
        = run (34 + 1) (s.resetBlock (offer (encode (.seed key iv)) ++ offer fill)) := run_succ_of_next hreset 35
      _ = run 1 u := run_add hseed 1
      _ = .next t := run_succ_of_next hfill 0
  · calc t.responses
        = (s.responses ++ [⟨.ok, []⟩]) ++ [⟨.ok, u.keyWords n.toNat⟩] := by rw [htresp, huresp]
      _ = s.responses ++ [⟨.ok, []⟩, ⟨.ok, (State.reset.seedBig key iv).keyWords n.toNat⟩] := by
        rw [hwords, List.append_assoc]
        rfl

end Sys2Proof.Machine
end

section
/-! PROOF. Both decoders against the encoder (spec/30_encoding.md R53 to R62), what the next step runs in each phase
(spec/30_encoding.md R52, spec/45_generator_commands.md R129 to R132), and the invariant after reset (spec/10_state.md). -/

namespace Sys2Proof

/-! ## The sequencer's decoder (R62) -/

/-- A sequencer word is its upper three bits and its lower five. -/
theorem sequencerWord_split (w : Byte) : w.extractLsb' 5 3 ++ w.extractLsb' 0 5 = w := by
  rw [BitVec.extractLsb'_append_extractLsb'_eq_extractLsb' (by rfl)]
  exact BitVec.extractLsb'_eq_self

theorem decodeSequencer_initRound (r : BitVec 5) : decodeSequencer (0b010#3 ++ r) = .ok (.initRound r) := by
  have hpattern : (0b010#3 ++ r).extractLsb' 5 3 = 0b010#3 := BitVec.extractLsb'_append_eq_left
  have hround : (0b010#3 ++ r).extractLsb' 0 5 = r := BitVec.extractLsb'_append_eq_right
  rw [decodeSequencer, if_pos hpattern, hround]

theorem decodeSequencer_finish : decodeSequencer 0b01100000#8 = .ok .finish := by decide

/-- The sequencer's decoder takes exactly the words of its operations (R62). -/
theorem decodeSequencer_eq_ok_iff {w : Byte} {i : Instr} :
    decodeSequencer w = .ok i ↔ i.space = .sequencerState ∧ encode i = [w] := by
  constructor
  · intro h
    unfold decodeSequencer at h
    split at h
    case isTrue hpattern =>
      cases h
      refine ⟨rfl, ?_⟩
      rw [encode, ← hpattern, sequencerWord_split]
    case isFalse =>
      split at h
      case isTrue hw =>
        cases h
        exact ⟨rfl, hw ▸ rfl⟩
      case isFalse => cases h
  · rintro ⟨hi, he⟩
    cases i with
    | initRound r =>
      cases he
      exact decodeSequencer_initRound r
    | finish =>
      cases he
      exact decodeSequencer_finish
    | seed key iv => cases hi
    | next => cases hi
    | fill n => cases hi
    | illegal opcode => cases hi

/-- The sequencer's decoder reads one byte and leaves the others. -/
theorem decode_sequencerState_eq_instr_iff {w : Byte} {more rest : List Byte} {i : Instr} :
    decode .sequencerState (w :: more) = .instr i rest ↔ decodeSequencer w = .ok i ∧ more = rest := by
  rw [decode]
  cases decodeSequencer w <;> simp

/-- A sequencer operation is encoded as one word. -/
theorem encode_of_sequencerState {i : Instr} (hi : i.space = .sequencerState) : ∃ w, encode i = [w] := by
  cases i with
  | initRound r => exact ⟨_, rfl⟩
  | finish => exact ⟨_, rfl⟩
  | seed key iv => cases hi
  | next => cases hi
  | fill n => cases hi
  | illegal opcode => cases hi

/-! ## Both spaces -/

/-- Settles O2: `decode_encode` for the commands; the one word of a sequencer operation is the one its decoder takes. -/
theorem decodeInvertsEncode : Obligations.DecodeInvertsEncode := by
  intro i rest hw
  cases hi : i.space with
  | hostCommand => exact decode_encode hi hw rest
  | sequencerState =>
    obtain ⟨w, he⟩ := encode_of_sequencerState hi
    rw [he]
    exact decode_sequencerState_eq_instr_iff.mpr ⟨decodeSequencer_eq_ok_iff.mpr ⟨hi, he⟩, rfl⟩

/-- Settles O3: each decoder takes exactly the encodings of its own space. -/
theorem decodedBytesAreTheEncoding : Obligations.DecodedBytesAreTheEncoding := by
  refine ⟨fun bytes rest i h => decode_eq_instr_iff.mp h, fun w rest i h => ?_⟩
  obtain ⟨hd, hrest⟩ := decode_sequencerState_eq_instr_iff.mp h
  obtain ⟨hi, he⟩ := decodeSequencer_eq_ok_iff.mp hd
  exact ⟨hi, he, hrest.symm⟩

/-- Settles O1: the decoders are evaluated on the eight words of the spec. -/
theorem specWordsDecode : Obligations.SpecWordsDecode := by
  unfold Obligations.SpecWordsDecode
  decide

end Sys2Proof

namespace Sys2Proof.Machine

/-! ## What the next step runs (R52, R129) -/

/-- Settles O9: the encoded command is the packet that the fetch takes first. -/
theorem stepRunsTheEncodedCommand : Obligations.StepRunsTheEncodedCommand := fun _ _ _ hp hi hw hc =>
  step_offered_command hp hi hw hc

/-- Without a reset coming first, the sequencer's fetch executes what its decoder reads from the word (R129, R131). -/
theorem fetchSequencer_of_ok {w : Byte} {i : Instr} {h : List HostEvent} (hr : resetFirst h = false)
    (hd : decodeSequencer w = .ok i) : fetchSequencer w h = .execute i (dropWait h) := by
  obtain ⟨e, t, he, rfl, _⟩ | ⟨_, ⟨j, hj, hf⟩ | ⟨why, herr, _⟩⟩ := fetchSequencer_cases w h
  · rw [resetFirst, he] at hr
    cases hr
  · cases hd.symm.trans hj
    exact hf
  · cases hd.symm.trans herr

/-- Settles O8: in INITIALIZING the fetch is the sequencer's, on the state's own word. -/
theorem stepRunsTheSequencerOperation : Obligations.StepRunsTheSequencerOperation := by
  intro s i hp hr h
  obtain ⟨hd, _⟩ := decode_sequencerState_eq_instr_iff.mp h
  have hf : s.fetch = fetchSequencer s.sequencerWord s.host := if_pos hp
  rw [step, hf, fetchSequencer_of_ok hr hd]

/-- Settles O32: without its precondition each of the two meanings answers the fault (log 10). -/
theorem sequencerOperationsStopElsewhere : Obligations.SequencerOperationsStopElsewhere :=
  ⟨fun _ _ hne => if_neg hne, fun _ hne => if_neg hne⟩

/-! ## The state after reset (R23) -/

/-- Settles O39: rc is 0 after reset, and the cells may be 0 in UNSEEDED. -/
theorem invariantHoldsAtReset : Obligations.InvariantHoldsAtReset :=
  State.inv_of_rc_zero rfl fun hp => absurd rfl hp

end Sys2Proof.Machine
end
